-- ==== Sys2Proof/Word.lean ====
section
/-! DEFINITION. The widths the manual gives its words and numbers (R1, R2, R74, R91, R145). -/

namespace Sys2Proof

/-- A byte of a host record (R183). -/
abbrev Byte := BitVec 8

/-- A 16-bit word of the ring line (R91). -/
abbrev Word := BitVec 16

/-- A resource tag: any 24-bit value (R1). -/
abbrev Tag := BitVec 24

/-- A station number, 0 to 63 (R74). -/
abbrev StationNo := BitVec 6

/-- A unit identity (R119). -/
abbrev Identity := BitVec 32

/-- One of the four host channels (R145). -/
abbrev Channel := Fin 4

/-- The index of one of a channel's four tag windows (R170). -/
abbrev WindowIx := Fin 4

/-- The index of one of the 64 lease entries (R2). -/
abbrev EntryIx := Fin 64

end Sys2Proof
end

