-- ==== Sys2Proof/Syntax.lean ====
section
/-! DEFINITION. The commands and events of the block: one constructor per row of spec/opcode_table.json. A host command
carries its channel, its sequence echo and the arguments of its record as the bytes carry them (R147, R186), values
out of range included. -/

namespace Sys2Proof

/-- What the receiver decodes in one word time of ring-in: a data word, one of the three control words, or a coding
violation (R91). -/
inductive LineWord where
  | data (w : Word)
  | idle
  | start
  | fin
  | violation
  deriving DecidableEq, Repr

/-- The commands and events that change the block's state. -/
inductive Instr where
  /-- CLAIM (R151, R186): bytes 2-4 tag, 5 mode, 6 priority, 7-8 term, 9 attempt limit. -/
  | claim (ch : Channel) (echo : Byte) (tag : Tag) (mode priority : Byte) (term : Word) (limit : Byte)
  /-- RELEASE (R67, R155): a handle. -/
  | release (ch : Channel) (echo index generation : Byte)
  /-- RENEW (R55, R156): a handle and a term, 0 meaning keep. -/
  | renew (ch : Channel) (echo index generation : Byte) (term : Word)
  /-- QUERY (R157): a handle. -/
  | query (ch : Channel) (echo index generation : Byte)
  /-- STATUS (R158). -/
  | status (ch : Channel) (echo : Byte)
  /-- MEMBERS (R159): an index of the membership view. -/
  | members (ch : Channel) (echo index : Byte)
  /-- RESET CHANNEL (R160). -/
  | resetChannel (ch : Channel) (echo : Byte)
  /-- RESET CHANNEL n (R161): a target channel. -/
  | resetChannelN (ch : Channel) (echo target : Byte)
  /-- START (R107, R163, R175). -/
  | start (ch : Channel) (echo : Byte)
  /-- LEAVE (R121, R163). -/
  | leave (ch : Channel) (echo : Byte)
  /-- CONFIGURE STATION (R167): the six settings, the census interval as a count of 10 ms steps. -/
  | configureStation (ch : Channel) (echo number ringLimit circuitTimeout retryInterval censusSteps margin : Byte)
  /-- SET CHANNEL LIMITS (R169). -/
  | setChannelLimits (ch : Channel) (echo target quota ceiling : Byte) (maxTerm : Word)
  /-- SET WINDOW (R173). -/
  | setWindow (ch : Channel) (echo target window : Byte) (value mask : Tag) (enabled shared exclusive : Bool)
  /-- SET ROUTE (R174): a routing class and a channel. -/
  | setRoute (ch : Channel) (echo routingClass target : Byte)
  /-- A taken record with a command code that R185 does not list (R147). -/
  | unknownCommand (ch : Channel) (code echo : Byte)
  /-- A WRITE COMMAND that ended after fewer than 16 record bytes (R179). -/
  | shortWriteCommand (ch : Channel) (received : Nat)
  /-- READ EVENT, at its opcode decode (R138, R180). -/
  | readEvent (ch : Channel)
  /-- READ ATTENTION, at its opcode decode (R180). -/
  | readAttention (ch : Channel)
  /-- A transaction whose opcode is none of the four of R178 (R181). -/
  | unknownOpcode (ch : Channel) (opcode : Byte)
  /-- RSTn low, or power-up (R3). -/
  | deviceReset
  /-- A valid word received while the upstream detector is SILENT (R93). -/
  | upstreamPresent
  /-- Expiry of the silence timer (R93). -/
  | upstreamSilent
  /-- A frame completed in the receive store reaches the Frame Processor (R79, R95). -/
  | frameArrival
  /-- A frame boundary on ring-out (R97). -/
  | frameBoundary
  /-- In DRAINING, the END of the frame on ring-out is sent (R102). -/
  | drainingEndSent
  /-- Expiry of the relay settle timer (R101). -/
  | relaySettleExpiry
  /-- Expiry of the join hold-off timer (R108). -/
  | joinHoldOffExpiry
  /-- Expiry of the census interval timer (R110). -/
  | censusIntervalExpiry
  /-- Expiry of the census circuit timer (R113). -/
  | censusLoss
  /-- A 1 ms tick at the term timer of one entry (R52). -/
  | termTick (entry : EntryIx)
  /-- The remaining term of one entry has reached 0 (R54). -/
  | termExpiry (entry : EntryIx)
  /-- Expiry of the backoff timer of one entry (R40). -/
  | backoffExpiry (entry : EntryIx)
  /-- Expiry of the circuit timer of a CLAIMING entry (R42, R43). -/
  | claimCircuitTimeout (entry : EntryIx)
  /-- Expiry of the circuit timer of a RELEASING entry (R65). -/
  | releaseCircuitTimeout (entry : EntryIx)
  /-- The Lease Table takes a change of station state it has been told (R47). -/
  | leaseTableTakesStateChange
  /-- One word, or a coding violation, received on ring-in (R93, R94). -/
  | lineWordReceived (w : LineWord)
  /-- In INSERTED, the END of the frame on ring-out is sent (R98). -/
  | frameEndSent
  /-- A tick of the 1 ms timebase at the station timestamp (R124). -/
  | stationTimestampTick
  /-- RSTn rising (R103). -/
  | resetRelease
  deriving DecidableEq, Repr

end Sys2Proof
end

