-- ==== Sys2Proof/WellFormed.lean ====
section
/-! DEFINITION. Which terms of Instr stand for an event the block can meet. Arguments of a record are never ill-formed:
a value out of range is the command's own business and is answered with a status (R147). -/

namespace Sys2Proof

/-- The command codes of R185; every other value is an unknown command. -/
def knownCodes : List Byte :=
  [0x10, 0x11, 0x12, 0x13, 0x14, 0x15, 0x16, 0x20, 0x21, 0x22, 0x23, 0x24, 0x25, 0x26]

/-- The transaction opcodes of R178; every other value is unknown. -/
def knownOpcodes : List Byte := [0x01, 0x02, 0x03, 0x04]

/-- An unknown command carries no code of R185, a short write fewer than 16 record bytes (R179), an unknown opcode none
of the four of R178. Every other term is well formed: its types hold the ranges. -/
def Instr.wellFormed : Instr → Bool
  | .unknownCommand _ code _ => !knownCodes.contains code
  | .shortWriteCommand _ received => decide (received < 16)
  | .unknownOpcode _ opcode => !knownOpcodes.contains opcode
  | .claim .. | .release .. | .renew .. | .query .. | .status .. | .members .. | .resetChannel .. | .resetChannelN ..
  | .start .. | .leave .. | .configureStation .. | .setChannelLimits .. | .setWindow .. | .setRoute ..
  | .readEvent _ | .readAttention _ | .deviceReset | .upstreamPresent | .upstreamSilent | .frameArrival
  | .frameBoundary | .drainingEndSent | .relaySettleExpiry | .joinHoldOffExpiry | .censusIntervalExpiry | .censusLoss
  | .termTick _ | .termExpiry _ | .backoffExpiry _ | .claimCircuitTimeout _ | .releaseCircuitTimeout _
  | .leaseTableTakesStateChange | .lineWordReceived _ | .frameEndSent | .stationTimestampTick | .resetRelease => true

end Sys2Proof
end

