-- ==== Sys2Proof/Decode.lean ====
section
/-! DEFINITION. From what a host sends to a command: the byte layout of the command records (R183, R184, R186) and the
transaction opcodes (R178). The opcode table gives no row any bits, so decodeTableWord answers none. -/

namespace Sys2Proof

/-- Two bytes as a 16-bit field, most significant byte first (R183). -/
def bytes2 (a b : Byte) : Word := a ++ b

/-- Three bytes as a 24-bit field, most significant byte first (R183). -/
def bytes3 (a b c : Byte) : Tag := a ++ b ++ c

/-- The command a 16-byte record stands for (R185, R186). Bytes and bits the command does not use are ignored (R184).
A shorter list is no record: none. Bytes beyond the sixteenth are ignored (R179). -/
def decodeRecord (ch : Channel) : List Byte → Option Instr
  | code :: e :: b2 :: b3 :: b4 :: b5 :: b6 :: b7 :: b8 :: b9 :: b10 :: _ :: _ :: _ :: _ :: _ :: _ =>
    some <|
      if code = 0x10 then .claim ch e (bytes3 b2 b3 b4) b5 b6 (bytes2 b7 b8) b9
      else if code = 0x11 then .release ch e b2 b3
      else if code = 0x12 then .renew ch e b2 b3 (bytes2 b4 b5)
      else if code = 0x13 then .query ch e b2 b3
      else if code = 0x14 then .status ch e
      else if code = 0x15 then .members ch e b2
      else if code = 0x16 then .resetChannel ch e
      else if code = 0x20 then .configureStation ch e b2 b3 b4 b5 b6 b7
      else if code = 0x21 then .setChannelLimits ch e b2 b3 b4 (bytes2 b5 b6)
      else if code = 0x22 then
        .setWindow ch e b2 b3 (bytes3 b4 b5 b6) (bytes3 b7 b8 b9) (b10.getLsbD 0) (b10.getLsbD 1) (b10.getLsbD 2)
      else if code = 0x23 then .setRoute ch e b2 b3
      else if code = 0x24 then .start ch e
      else if code = 0x25 then .leave ch e
      else if code = 0x26 then .resetChannelN ch e b2
      else .unknownCommand ch code e
  | _ => none

/-- What a whole transaction on a channel's port is, from the whole bytes the host sends while select is low (R178,
R179). A transaction without a whole first byte changes nothing, and READ RESULT (0x02) changes nothing and has no row
(log entry 15): none. -/
def decodeTransaction (ch : Channel) : List Byte → Option Instr
  | [] => none
  | opcode :: bytes =>
    if opcode = 0x01 then some ((decodeRecord ch bytes).getD (.shortWriteCommand ch bytes.length))
    else if opcode = 0x02 then none
    else if opcode = 0x03 then some (.readEvent ch)
    else if opcode = 0x04 then some (.readAttention ch)
    else some (.unknownOpcode ch opcode)

/-- The command the opcode table's bits spell. The table gives bits for no row, so no word spells a command. -/
def decodeTableWord (_nbits _w : Nat) : Option Instr := none

/-- One byte of a field, from its lowest bit (R183). -/
def byteAt {n : Nat} (x : BitVec n) (lo : Nat) : Byte := x.extractLsb' lo 8

/-- A command record: the sixteen bytes that begin with these, the rest zero. -/
def padRecord (bytes : List Byte) : List Byte := bytes ++ List.replicate (16 - bytes.length) 0

/-- The three flag bits of SET WINDOW's byte 10 (R186). -/
def windowFlags (enabled shared exclusive : Bool) : Byte :=
  (if enabled then 1 else 0) ||| (if shared then 2 else 0) ||| (if exclusive then 4 else 0)

/-- The record of a command that a WRITE COMMAND carries (R185, R186), bytes it does not use being zero; none for every
other event. -/
def encodeRecord : Instr → Option (List Byte)
  | .claim _ e tag mode priority term limit =>
    some (padRecord [0x10, e, byteAt tag 16, byteAt tag 8, byteAt tag 0, mode, priority, byteAt term 8, byteAt term 0,
      limit])
  | .release _ e index generation => some (padRecord [0x11, e, index, generation])
  | .renew _ e index generation term =>
    some (padRecord [0x12, e, index, generation, byteAt term 8, byteAt term 0])
  | .query _ e index generation => some (padRecord [0x13, e, index, generation])
  | .status _ e => some (padRecord [0x14, e])
  | .members _ e index => some (padRecord [0x15, e, index])
  | .resetChannel _ e => some (padRecord [0x16, e])
  | .resetChannelN _ e target => some (padRecord [0x26, e, target])
  | .start _ e => some (padRecord [0x24, e])
  | .leave _ e => some (padRecord [0x25, e])
  | .configureStation _ e number ringLimit circuitTimeout retryInterval censusSteps margin =>
    some (padRecord [0x20, e, number, ringLimit, circuitTimeout, retryInterval, censusSteps, margin])
  | .setChannelLimits _ e target quota ceiling maxTerm =>
    some (padRecord [0x21, e, target, quota, ceiling, byteAt maxTerm 8, byteAt maxTerm 0])
  | .setWindow _ e target window value mask enabled shared exclusive =>
    some (padRecord [0x22, e, target, window, byteAt value 16, byteAt value 8, byteAt value 0, byteAt mask 16,
      byteAt mask 8, byteAt mask 0, windowFlags enabled shared exclusive])
  | .setRoute _ e routingClass target => some (padRecord [0x23, e, routingClass, target])
  | .unknownCommand _ code e => some (padRecord [code, e])
  | .shortWriteCommand .. | .readEvent _ | .readAttention _ | .unknownOpcode .. | .deviceReset | .upstreamPresent
  | .upstreamSilent | .frameArrival | .frameBoundary | .drainingEndSent | .relaySettleExpiry | .joinHoldOffExpiry
  | .censusIntervalExpiry | .censusLoss | .termTick _ | .termExpiry _ | .backoffExpiry _ | .claimCircuitTimeout _
  | .releaseCircuitTimeout _ | .leaseTableTakesStateChange | .lineWordReceived _ | .frameEndSent
  | .stationTimestampTick | .resetRelease => none

/-- The channel on whose port a command was written. -/
def Instr.channel : Instr → Option Channel
  | .claim ch .. | .release ch .. | .renew ch .. | .query ch .. | .status ch .. | .members ch .. | .resetChannel ch ..
  | .resetChannelN ch .. | .start ch .. | .leave ch .. | .configureStation ch .. | .setChannelLimits ch ..
  | .setWindow ch .. | .setRoute ch .. | .unknownCommand ch .. | .shortWriteCommand ch .. | .readEvent ch
  | .readAttention ch | .unknownOpcode ch .. => some ch
  | .deviceReset | .upstreamPresent | .upstreamSilent | .frameArrival | .frameBoundary | .drainingEndSent
  | .relaySettleExpiry | .joinHoldOffExpiry | .censusIntervalExpiry | .censusLoss | .termTick _ | .termExpiry _
  | .backoffExpiry _ | .claimCircuitTimeout _ | .releaseCircuitTimeout _ | .leaseTableTakesStateChange
  | .lineWordReceived _ | .frameEndSent | .stationTimestampTick | .resetRelease => none

end Sys2Proof
end

