-- ==== Sys2Proof/Config.lean ====
section
/-! DEFINITION. What is fixed in the part: capacities, durations and the reference clock, each as the spec states it, and one
free value: an order that the spec leaves open (R81). What a host may change is the Configuration Store, in
Machine/State.lean. -/

namespace Sys2Proof.Config

/-- Records an event queue holds (R126). -/
@[simp] abbrev queueCapacity : Nat := 24

/-- Data words the transit store holds (R96). -/
@[simp] abbrev transitCapacity : Nat := 512

/-- Data words the receive store holds (5.4). -/
@[simp] abbrev receiveCapacity : Nat := 197

/-- Entries a census list or the membership view may hold (R77, R114). -/
@[simp] abbrev censusCapacity : Nat := 64

/-- The quotas may not add up to more than this (R175). -/
@[simp] abbrev quotaTotal : Nat := 64

/-- The relay settle timer, in us (R100). -/
@[simp] abbrev settleMicros : Nat := 5000

/-- The silence timer, in us (R93). -/
@[simp] abbrev silenceMicros : Nat := 50

/-- What one damaged arrival adds to the fault score (R115). -/
@[simp] abbrev damageWeight : Nat := 8

/-- The top of the fault score (R115). -/
@[simp] abbrev scoreMax : Nat := 255

/-- The fault warning is raised at this score (R116). -/
@[simp] abbrev warnAt : Nat := 96

/-- The fault warning is cleared below this score (R116). -/
@[simp] abbrev warnClearBelow : Nat := 64

/-- A DOWN station trusts its upstream line at or below this score (R110, R112). -/
@[simp] abbrev trustScore : Nat := 32

/-- The greatest standing (R24). -/
@[simp] abbrev standingMax : Nat := 15

/-- Periods of the reference clock in one word time (R91). -/
@[simp] abbrev clocksPerWord : Nat := 10

/-- Periods of the 25 MHz reference clock in one us (00 section 3). -/
@[simp] abbrev clocksPerMicro : Nat := 25

/-- Periods of the 25 MHz reference clock in one ms (00 section 3). -/
@[simp] abbrev clocksPerMilli : Nat := 25000

/-- IDLE words sent after an END before the next START (R91, R97). -/
@[simp] abbrev gapWords : Nat := 2

/-- Record bytes of a command (R146). -/
@[simp] abbrev recordBytes : Nat := 16

/-- FREE VALUE (log entry 12). Whether, at the n-th frame that carries this station's number with another source check and is
passed on, the Lease Table takes the change to HALTED before it judges the frame (R81: "in either order"). It has no value. -/
opaque haltedFirst (n : Nat) : Bool

end Sys2Proof.Config
end

