-- ==== Sys2Proof/Machine/State.lean ====
section
/-! DEFINITION. The state of the LT4 as plain data, block by block as the manual gives it, and the state right after a
device reset. A field the manual calls absent in some states stands only in the constructors of the states that have it. -/

namespace Sys2Proof.Machine

/-! ### The Lease Table (R2) -/

/-- Mode of a lease, a claim or a waiting entry (R1). -/
inductive Mode where
  | shared
  | exclusive
  deriving DecidableEq, Repr

/-- Frame phase of an entry that has a frame to send or on the ring (R6). Phase NONE is every other state. An entry in
flight has its frame's serial and its circuit timer in ms (R11, R27, R63). -/
inductive FramePhase where
  | queued
  | inFlight (serial : Byte) (circuit : Nat)
  deriving DecidableEq, Repr

/-- Why an attempt failed (R2, R37, R42). -/
inductive FailCause where
  | held
  | yield
  | lost
  | timeout
  deriving DecidableEq, Repr

/-- The last refusal of a tenancy: a cause and an objector that may be absent (R2). -/
structure LastRefusal where
  cause : FailCause
  objector : Option StationNo
  deriving DecidableEq, Repr

/-- State of a non-FREE entry with the fields that belong to it (R2, R6): the frame phase and lost flag of CLAIMING, the
backoff timer in ms of BACKOFF, remaining term (which is the term timer) and remote demand of HELD, the frame phase of
RELEASING. -/
inductive EntryState where
  | queuedLocal
  | claiming (phase : FramePhase) (lost : Bool)
  | backoff (timer : Nat)
  | held (remaining : Nat) (remoteDemand : Bool)
  | releasing (phase : FramePhase)
  | closing
  deriving DecidableEq, Repr

/-- The states of a non-FREE entry by name, as a result reports them (R155, R157, R185). -/
inductive StateName where
  | queuedLocal
  | claiming
  | backoff
  | held
  | releasing
  | closing
  deriving DecidableEq, Repr

/-- The four marks of a lease notice (R129). -/
structure Marks where
  contended : Bool := false
  expiring : Bool := false
  handedOn : Bool := false
  granted : Bool := false
  deriving DecidableEq, Repr

/-- Cause of a DENIED notice (R129). -/
inductive DenyCause where
  | held
  | yield
  | lost
  | timeout
  | ringDown
  | halted
  deriving DecidableEq, Repr

/-- Kind of a lease notice other than VOID, with the fields of that kind alone (R129). -/
inductive LeaseKind where
  | granted (mode : Mode)
  | contended (claimant : StationNo)
  | expiring (remaining : Nat)
  | denied (cause : DenyCause) (objector : Option StationNo) (attempts : Nat)
  | expired
  deriving DecidableEq, Repr

/-- A lease notice (R128, R129): its handle is index and generation. -/
structure LeaseNotice where
  kind : LeaseKind
  timestamp : BitVec 32
  index : EntryIx
  generation : BitVec 4
  tag : Tag
  marks : Marks
  deriving DecidableEq, Repr

/-- The fields of a non-FREE entry (R2). -/
structure Tenancy where
  owner : Channel
  attached : Bool
  tag : Tag
  mode : Mode
  priority : Nat
  attemptLimit : Nat
  attempts : Nat
  term : Nat
  state : EntryState
  lastRefusal : Option LastRefusal
  contendedNotified : Bool
  expiringNotified : Bool
  deferred : Option LeaseNotice
  deriving DecidableEq, Repr

/-- A lease entry: its generation always, its other fields while it is not FREE (R2, R3). -/
structure Entry where
  generation : BitVec 4
  tenancy : Option Tenancy
  deriving DecidableEq, Repr

/-- The five station states (R106). -/
inductive StationState where
  | offline
  | joining
  | up
  | down
  | halted
  deriving DecidableEq, Repr

/-- The Lease Table. `waiting` holds the QUEUED_LOCAL entries of all tags in the order in which their CLAIMs were
accepted; the wait list of a tag is its part on that tag (R16). `taken` is the station state of the last change the
table has taken and `changes` the changes it has been told and has not taken, oldest first (R47, log entry 11). -/
structure LeaseTable where
  entries : Vector Entry 64
  waiting : List EntryIx
  taken : StationState
  changes : List StationState
  deriving DecidableEq, Repr

/-! ### The Frame Processor (R85, R86, R95) -/

/-- An item of the send list (R86). -/
inductive SendItem where
  | claim (entry : EntryIx)
  | release (entry : EntryIx)
  | census
  deriving DecidableEq, Repr

/-- A completed frame as the Line Interface hands it on: its words and the three indications of R95. -/
structure Arrival where
  words : List Word
  violation : Bool
  overlong : Bool
  cutShort : Bool
  deriving DecidableEq, Repr

/-- The send list, the frame serial counter, and the frames handed on and not yet judged (log entry 8). -/
structure FrameProcessor where
  sendList : List SendItem
  serial : Byte
  arrivals : List Arrival
  deriving DecidableEq, Repr

/-! ### The Station Controller (R105) -/

/-- One entry of a census list or of the membership view (R77, R114). -/
structure Member where
  number : StationNo
  identity : Identity
  deriving DecidableEq, Repr

/-- Condition of the census (R109). In flight it has its serial, its origination time on the 1 us timebase and its
circuit timer in ms. -/
inductive Census where
  | none
  | queued
  | inFlight (serial : Byte) (origin : Nat) (circuit : Nat)
  deriving DecidableEq, Repr

/-- The station record (R105). A timer is none while stopped and holds its ticks left while it runs. -/
structure StationRecord where
  state : StationState
  leaving : Bool
  faultScore : Nat
  faultWarning : Bool
  timestamp : BitVec 32
  view : List Member
  census : Census
  censusLosses : Nat
  awaitsUpstream : Bool
  lastCircuit : Nat
  holdOff : Option Nat
  interval : Option Nat
  deriving DecidableEq, Repr

/-! ### The Line Interface (R92 to R97) -/

/-- Insertion mode; SETTLING has its relay settle timer in us (R92, R100). -/
inductive InsertionMode where
  | bypassed
  | settling (timer : Nat)
  | inserted
  | draining
  deriving DecidableEq, Repr

/-- Upstream detector; PRESENT has its silence timer in us (R93). -/
inductive Detector where
  | silent
  | present (timer : Nat)
  deriving DecidableEq, Repr

/-- Receiver condition. In a frame it has the receive store and the two marks of R94. -/
inductive Receiver where
  | between
  | inFrame (store : List Word) (violation overlong : Bool)
  deriving DecidableEq, Repr

/-- The transmitter: not sending a frame, with the IDLE words it still owes before a frame boundary (R97); sending the frame
with these data words, of which so many line words, START counted, have been sent (R91, R98); or in the word time of the END,
with the whole gap owed. -/
inductive Transmitter where
  | idle (owed : Nat)
  | sending (words : List Word) (sent : Nat)
  | ended
  deriving DecidableEq, Repr

/-- The Line Interface. -/
structure LineInterface where
  mode : InsertionMode
  detector : Detector
  receiver : Receiver
  transit : List (List Word)
  transmitter : Transmitter
  deriving DecidableEq, Repr

/-! ### The Event Block and the channel ports (chapters 7, 8 and 10) -/

/-- Cause of RING_STATE (R130). -/
inductive RingCause where
  | started
  | joined
  | silence
  | censusLost
  | faults
  | recovered
  | duplicate
  | left
  deriving DecidableEq, Repr

/-- The suppressed set of a summary marker (R136, R137). -/
structure Suppressed where
  ring : Bool := false
  membership : Bool := false
  faults : Bool := false
  void : Bool := false
  deriving DecidableEq, Repr

/-- An event record (R128 to R130). -/
inductive EventRecord where
  | lease (notice : LeaseNotice)
  | void (timestamp : BitVec 32)
  | ringState (timestamp : BitVec 32) (cause : RingCause) (newState : StationState) (duplicate : Option StationNo)
  | membership (timestamp : BitVec 32) (count : Nat)
  | faultWarning (timestamp : BitVec 32) (score : Nat) (raised : Bool)
  | stationSummary (timestamp : BitVec 32) (count : Nat) (score : Nat) (warning : Bool) (suppressed : Suppressed)
  | empty (timestamp : BitVec 32)
  deriving DecidableEq, Repr

/-- An item of a deferral list: an entry whose slot holds a notice, or the summary marker with its set (R133, R137). -/
inductive DeferralItem where
  | entry (entry : EntryIx)
  | marker (suppressed : Suppressed)
  deriving DecidableEq, Repr

/-- The three routing classes (R174). -/
inductive RoutingClass where
  | ring
  | membership
  | faults
  deriving DecidableEq, Repr

/-- The station settings (R166), the census interval in ms. -/
structure Settings where
  stationNumber : StationNo
  ringLimit : Nat
  circuitTimeout : Nat
  retryInterval : Nat
  censusInterval : Nat
  warningMargin : Nat
  deriving DecidableEq, Repr

/-- The limits of a channel (R168). -/
structure Limits where
  quota : Nat
  ceiling : Nat
  maxTerm : Nat
  deriving DecidableEq, Repr

/-- A tag window (R170); `value` is the window's match. -/
structure Window where
  enabled : Bool
  value : Tag
  mask : Tag
  sharedRight : Bool
  exclusiveRight : Bool
  deriving DecidableEq, Repr

/-- The routing table (R174). -/
structure Routing where
  ring : Channel
  membership : Channel
  faults : Channel
  deriving DecidableEq, Repr

/-- Result statuses (8.11). NONE is the empty slot. -/
inductive Status where
  | ok
  | accepted
  | queued
  | grantedNow
  | badHandle
  | gone
  | wrongState
  | badArgument
  | notPermitted
  | notUp
  | alreadyClaimed
  | quotaFull
  | unknownCommand
  deriving DecidableEq, Repr

/-- What QUERY reports (R157). -/
structure QueryValues where
  state : StateName
  mode : Mode
  tag : Tag
  attempts : Nat
  remaining : Option Nat
  remoteDemand : Option Bool
  lastRefusal : Option LastRefusal
  deriving DecidableEq, Repr

/-- What STATUS reports (R158). -/
structure StatusValues where
  station : StationState
  number : StationNo
  identity : Identity
  faultScore : Nat
  faultWarning : Bool
  members : Nat
  lastCircuit : Nat
  freeEntries : Nat
  nonFree : Nat
  quota : Nat
  queueCount : Nat
  timestamp : BitVec 32
  deriving DecidableEq, Repr

/-- The values of a result record, by command and status (R148, R187). -/
inductive ResultValues where
  | nothing
  | handle (index : EntryIx) (generation : BitVec 4)
  | granted (index : EntryIx) (generation : BitVec 4) (term : Nat)
  | state (state : StateName)
  | renewed (term remaining : Nat)
  | query (values : QueryValues)
  | status (values : StatusValues)
  | member (index count : Nat) (entry : Option Member)
  | reset (target issuing : Channel) (freed after : Nat)
  | left (freed : Nat)
  | settings (settings : Settings)
  | limits (target : Channel) (limits : Limits)
  | window (target : Channel) (index : WindowIx) (window : Window)
  | route (routingClass : RoutingClass) (target : Channel)
  deriving DecidableEq, Repr

/-- A result record (R148). -/
structure ResultRecord where
  code : Byte
  echo : Byte
  status : Status
  values : ResultValues
  deriving DecidableEq, Repr

/-- The copy a read transaction takes at opcode decode and the port shifts out (R180); zeros where it shifts out 0x00 (R181,
log entry 16). -/
inductive ReadCopy where
  | zeros
  | event (record : EventRecord)
  | attention (count : Nat) (deferral portError : Bool)
  | result (slot : Option ResultRecord)
  deriving DecidableEq, Repr

/-- How far a transaction has come (R178 to R181): its opcode byte not complete; a WRITE COMMAND with the whole record bytes
collected; a read or an unknown opcode decoded, with the bytes shifted out since. -/
inductive PortPhase where
  | opcode
  | writing (bytes : List Byte)
  | shifting (sent : Nat)
  deriving DecidableEq, Repr

/-- A channel port (R178): select high; select low with a transaction under way and the bits of the byte that is not yet
complete, first bit first; or select low without a transaction, because it fell while RSTn was low or the transaction was
abandoned, until it rises. -/
inductive Port where
  | idle
  | active (phase : PortPhase) (bits : List Bool)
  | ignored
  deriving DecidableEq, Repr

/-- Event state and port of one channel (R126, R133, R145, R180). A slot of none reads NONE. -/
structure ChannelState where
  queue : List EventRecord
  deferral : List DeferralItem
  slot : Option ResultRecord
  portError : Bool
  readCopy : ReadCopy
  deriving DecidableEq, Repr

/-- The Configuration Store (R165). -/
structure ConfigStore where
  settings : Settings
  limits : Vector Limits 4
  windows : Vector (Vector Window 4) 4
  routing : Routing
  deriving DecidableEq, Repr

/-- The Timebase: the phase of the 25 MHz reference clock within a millisecond, and the 1 us reading (R105, log entry
3). -/
structure Timebase where
  phase : Nat
  micros : Nat
  deriving DecidableEq, Repr

/-- The whole block, with the queue of the commands that wait. `rstnLow` holds while RSTn is low (R103, R178). `choices` counts
the free choices drawn (log entry 12). -/
structure State where
  lease : LeaseTable
  frames : FrameProcessor
  station : StationRecord
  line : LineInterface
  channels : Vector ChannelState 4
  config : ConfigStore
  time : Timebase
  identity : Identity
  rstnLow : Bool
  ports : Vector Port 4
  choices : Nat
  pending : List Instr
  deriving DecidableEq, Repr

/-- Reasons for a fault. There is none: the spec names no event that stops the part (safe: every claim about a fault is
empty). -/
inductive Fault where
  deriving DecidableEq, Repr

/-- Reasons for a refusal. -/
inductive Refusal where
  /-- Raised by an arm of exec whose command has no meaning yet; safe, since nothing is claimed of it. No arm does. -/
  | notModelled (mnemonic : String)
  deriving DecidableEq, Repr

/-! ### The device-reset values -/

/-- An entry after a device reset (R3). -/
def Entry.reset : Entry := { generation := 0, tenancy := none }

/-- The Lease Table after a device reset (R3, R16). -/
def LeaseTable.reset : LeaseTable :=
  { entries := Vector.replicate 64 Entry.reset, waiting := [], taken := .offline, changes := [] }

/-- The Frame Processor after a device reset (R85, R86). -/
def FrameProcessor.reset : FrameProcessor := { sendList := [], serial := 0, arrivals := [] }

/-- The station record after a device reset (R105). -/
def StationRecord.reset : StationRecord :=
  { state := .offline, leaving := false, faultScore := 0, faultWarning := false, timestamp := 0, view := [],
    census := .none, censusLosses := 0, awaitsUpstream := false, lastCircuit := 0, holdOff := none, interval := none }

/-- The Line Interface after a device reset (R92, R93, R97, R103). -/
def LineInterface.reset : LineInterface :=
  { mode := .bypassed, detector := .silent, receiver := .between, transit := [],
    transmitter := .idle Config.gapWords }

/-- A channel after a device reset (R144, R145). -/
def ChannelState.reset : ChannelState :=
  { queue := [], deferral := [], slot := none, portError := false, readCopy := .zeros }

/-- The default station settings (R166). -/
def Settings.default : Settings :=
  { stationNumber := 0, ringLimit := 64, circuitTimeout := 20, retryInterval := 5, censusInterval := 100,
    warningMargin := 10 }

/-- The default limits of a channel (R168). -/
def Limits.default : Limits := { quota := 16, ceiling := 7, maxTerm := 65535 }

/-- Window 0 of a channel after a device reset covers every tag with both rights (R170). -/
def Window.everyTag : Window := { enabled := true, value := 0, mask := 0, sharedRight := true, exclusiveRight := true }

/-- Windows 1 to 3 of a channel after a device reset (R170). -/
def Window.disabled : Window := { enabled := false, value := 0, mask := 0, sharedRight := false, exclusiveRight := false }

/-- The Configuration Store after a device reset (R165). -/
def ConfigStore.reset : ConfigStore :=
  { settings := Settings.default
    limits := Vector.replicate 4 Limits.default
    windows := Vector.replicate 4 #v[Window.everyTag, Window.disabled, Window.disabled, Window.disabled]
    routing := { ring := 0, membership := 0, faults := 0 } }

/-- The block right after a device reset, RSTn high again (R3, R103, R105, R144, R145, R165; log entry 2). The unit
identity (log entry 1), the timebase (log entry 3) and the count of choices (log entry 12) hold values the spec does not give:
DESIGN CHOICE. -/
def State.reset : State :=
  { lease := LeaseTable.reset, frames := FrameProcessor.reset, station := StationRecord.reset,
    line := LineInterface.reset, channels := Vector.replicate 4 ChannelState.reset, config := ConfigStore.reset,
    time := { phase := 0, micros := 0 }, identity := 1, rstnLow := false,
    ports := Vector.replicate 4 .idle, choices := 0, pending := [] }

end Sys2Proof.Machine
end

