-- ==== Sys2Proof/Machine/Flags.lean ====
section
/-! DEFINITION. Marks, flags and counters computed from their inputs alone: standing and its ordering (R24, R25), the
marks of a coalesced notice (R134), the suppressed set (R136), the fault score and its warning (R115, R116), and the
outputs BYP, ATTN and ROUT (R182). -/

namespace Sys2Proof.Machine

/-! ### Standing (R24, R25) -/

/-- The standing of an attempt of an entry with this priority (R24). -/
def standingOf (priority attempt : Nat) : Nat := min Config.standingMax (priority + attempt - 1)

/-- The number of the attempt that counts for an entry in this frame phase (R14, R24). -/
def FramePhase.attemptNumber (phase : FramePhase) (attempts : Nat) : Nat :=
  match phase with
  | .queued => attempts + 1
  | .inFlight _ _ => attempts

/-- A claim of this standing and station is better than the other one (R25). -/
def better (standing : Nat) (station : StationNo) (standing' : Nat) (station' : StationNo) : Bool :=
  decide (standing' < standing) || (standing == standing' && decide (station.toNat < station'.toNat))

/-! ### Modes and entry states -/

/-- Two modes on one tag conflict unless both are SHARED (R1). -/
def Mode.conflicts (m m' : Mode) : Bool := !(m == .shared && m' == .shared)

/-- The state by name (R155, R157). -/
def EntryState.name : EntryState → StateName
  | .queuedLocal => .queuedLocal
  | .claiming _ _ => .claiming
  | .backoff _ => .backoff
  | .held _ _ => .held
  | .releasing _ => .releasing
  | .closing => .closing

/-- HELD. -/
def Tenancy.isHeld (t : Tenancy) : Bool := t.state.name == .held

/-- HELD in mode EXCLUSIVE. -/
def Tenancy.isHeldExclusive (t : Tenancy) : Bool := t.isHeld && t.mode == .exclusive

/-- QUEUED_LOCAL. -/
def Tenancy.isQueued (t : Tenancy) : Bool := t.state.name == .queuedLocal

/-- CLAIMING and attached, which gives the position pending (R14). -/
def Tenancy.isPending (t : Tenancy) : Bool := t.attached && t.state.name == .claiming

/-- CLAIMING, BACKOFF or RELEASING, which makes acceptance case 1 apply (R18). -/
def Tenancy.blocks (t : Tenancy) : Bool :=
  match t.state with
  | .claiming _ _ | .backoff _ | .releasing _ => true
  | .queuedLocal | .held _ _ | .closing => false

/-! ### Notices (R129, R134) -/

/-- DENIED and EXPIRED are terminal (R129). -/
def LeaseKind.terminal : LeaseKind → Bool
  | .denied _ _ _ | .expired => true
  | .granted _ | .contended _ | .expiring _ => false

/-- The marks with the mark of an arriving non-terminal kind set (R134, first row). -/
def Marks.withKind (m : Marks) : LeaseKind → Marks
  | .granted _ => { m with granted := true }
  | .contended _ => { m with contended := true }
  | .expiring _ => { m with expiring := true }
  | .denied _ _ _ | .expired => m

/-- The marks of both (R134, second row). -/
def Marks.union (m m' : Marks) : Marks :=
  { contended := m.contended || m'.contended, expiring := m.expiring || m'.expiring,
    handedOn := m.handedOn || m'.handedOn, granted := m.granted || m'.granted }

/-- A held GRANTED carried over as the granted mark (R134, second row). -/
def LeaseKind.isGranted : LeaseKind → Bool
  | .granted _ => true
  | .contended _ | .expiring _ | .denied _ _ _ | .expired => false

/-- What the slot holds after a notice arrives at a slot that holds one (R134). -/
def LeaseNotice.combine (held arriving : LeaseNotice) : LeaseNotice :=
  if held.kind.terminal then held
  else if arriving.kind.terminal then
    { arriving with marks := (arriving.marks.union held.marks).union { granted := held.kind.isGranted } }
  else { held with marks := held.marks.withKind arriving.kind }

/-- The DENIED cause of a failed attempt (R39, R42). -/
def FailCause.denyCause : FailCause → DenyCause
  | .held => .held
  | .yield => .yield
  | .lost => .lost
  | .timeout => .timeout

/-! ### The summary marker (R136) -/

/-- What a suppressed event leaves in the marker: the class of a station event, or VOID (R136). -/
inductive EventClass where
  | ring
  | membership
  | faults
  | void
  deriving DecidableEq, Repr

/-- The class a station event of a routing class leaves in the marker (R136). -/
def RoutingClass.eventClass : RoutingClass → EventClass
  | .ring => .ring
  | .membership => .membership
  | .faults => .faults

/-- The set with one class more (R136). -/
def Suppressed.add (set : Suppressed) : EventClass → Suppressed
  | .ring => { set with ring := true }
  | .membership => { set with membership := true }
  | .faults => { set with faults := true }
  | .void => { set with void := true }

/-- The set joined by a class in a marker; an entry item is left as it is (R136). -/
def DeferralItem.addClass (c : EventClass) : DeferralItem → DeferralItem
  | .marker set => .marker (set.add c)
  | .entry i => .entry i

/-- Whether the item is the summary marker (R133). -/
def DeferralItem.isMarker : DeferralItem → Bool
  | .marker _ => true
  | .entry _ => false

/-! ### The fault score and its warning (R115, R116) -/

/-- The score after a damaged arrival (R115). -/
def scoreDamaged (score : Nat) : Nat := min Config.scoreMax (score + Config.damageWeight)

/-- The score after an intact arrival (R115). -/
def scoreIntact (score : Nat) : Nat := score - 1

/-! ### Outputs (R182) -/

/-- BYP is asserted in every insertion mode but BYPASSED (R92, R182). -/
def State.byp (s : State) : Bool :=
  match s.line.mode with
  | .bypassed => false
  | .settling _ | .inserted | .draining => true

/-- ATTN of a channel is asserted while its event queue holds a record (R127, R182). -/
def State.attn (s : State) (c : Channel) : Bool := !(s.channels.get c).queue.isEmpty

/-- The line word of a frame with these data words at this place: START, the data words, END (R91). -/
def frameLineWord (words : List Word) (place : Nat) : LineWord :=
  match place with
  | 0 => .start
  | k + 1 =>
    match words[k]? with
    | some w => .data w
    | none => .fin

/-- The word on ring-out in the present word time: none while RSTn is low, IDLE while no frame is being sent (R91, R103,
R182). -/
def State.ringOutWord (s : State) : Option LineWord :=
  if s.rstnLow then none
  else match s.line.transmitter with
    | .idle _ => some .idle
    | .sending words sent => some (frameLineWord words (sent - 1))
    | .ended => some .fin

end Sys2Proof.Machine
end

