-- ==== Sys2Proof/Machine/Frames.lean ====
section
/-! DEFINITION. Frames as words: the layout of R189, the CRC of R190, what makes a frame damaged (R78), the frames a
station originates (R27, R63, R90) and the changes a forwarding station makes (R83). -/

namespace Sys2Proof.Machine

/-! ### The CRC (R190) -/

/-- One bit entering the register; the generator is x^16 + x^12 + x^5 + 1 (R190). -/
def crcBit (r : Word) (b : Bool) : Word := if r.msb != b then (r <<< 1) ^^^ 0x1021 else r <<< 1

/-- One word entering the register, most significant bit first (R190). -/
def crcWord (r w : Word) : Word := (List.range 16).foldl (fun r k => crcBit r (w.getMsbD k)) r

/-- The CRC-16 of a list of words, from 0xFFFF, without inversion (R190). -/
def crc16 (ws : List Word) : Word := ws.foldl crcWord 0xFFFF

/-- The words closed by their CRC (R74, R190). -/
def withCrc (ws : List Word) : List Word := ws ++ [crc16 ws]

/-! ### Frames by their fields (R74 to R77) -/

/-- What follows the header, by kind (R75 to R77). -/
inductive FrameBody where
  | claim (tag : Tag) (mode : Mode) (standing : BitVec 4) (held yield : Bool) (objector : Option StationNo)
  | release (tag : Tag)
  | census (members : List Member)
  deriving DecidableEq, Repr

/-- An intact frame (R74). -/
structure Frame where
  source : StationNo
  check : Word
  hop : BitVec 6
  serial : Byte
  body : FrameBody
  deriving DecidableEq, Repr

/-- The kind field of word 0 (R189). -/
def FrameBody.kind : FrameBody → BitVec 2
  | .claim .. => 0b01
  | .release _ => 0b10
  | .census _ => 0b11

/-- Bits 7 to 0 of word 2, by kind (R189). -/
def FrameBody.lowByte : FrameBody → Byte
  | .claim tag .. | .release tag => tag.extractLsb' 16 8
  | .census _ => 0

/-- The mode bit of a CLAIM's word 4 (R189). -/
def Mode.bit : Mode → BitVec 1
  | .shared => 0
  | .exclusive => 1

/-- A flag as a bit (R184). -/
def flagBit (b : Bool) : BitVec 1 := if b then 1 else 0

/-- The objector-present bit and the objector bits of a CLAIM's word 4 (R189). -/
def objectorBits : Option StationNo → BitVec 7
  | none => 0
  | some n => (1 : BitVec 1) ++ n

/-- The three words of a census list entry (R189). -/
def Member.words (m : Member) : List Word :=
  [m.number.setWidth 16, m.identity.extractLsb' 16 16, m.identity.extractLsb' 0 16]

/-- The words of the contents after the header, CRC apart (R189). -/
def FrameBody.words : FrameBody → List Word
  | .claim tag mode standing held yield objector =>
    [tag.extractLsb' 0 16,
     mode.bit ++ standing ++ flagBit held ++ flagBit yield ++ (0 : BitVec 2) ++ objectorBits objector]
  | .release tag => [tag.extractLsb' 0 16]
  | .census members => BitVec.ofNat 16 members.length :: members.flatMap Member.words

/-- The header words (R189). -/
def Frame.header (f : Frame) : List Word :=
  [f.body.kind ++ f.source ++ (0 : BitVec 2) ++ f.hop, f.check, f.serial ++ f.body.lowByte]

/-- A frame's words as its originator writes them, bits shown as zero being 0 (R189, R190). -/
def Frame.encode (f : Frame) : List Word := withCrc (f.header ++ f.body.words)

/-! ### Reading an arrival (R78) -/

/-- The list entries of a census from the words after the entry count, whose last is the CRC. None when their number is
not 3n + 1 or an identity is 0 (R78). -/
def parseMembers : List Word → Option (List Member)
  | [_] => some []
  | a :: hi :: lo :: rest =>
    match parseMembers rest with
    | none => none
    | some ms =>
      let identity : Identity := hi ++ lo
      if identity = 0 then none else some ({ number := a.extractLsb' 0 6, identity := identity } :: ms)
  | _ => none

/-- The contents of a CLAIM from words 2 (its low byte), 3 and 4; none when objector and marks disagree (R78). -/
def parseClaim (high : Byte) (w3 w4 : Word) : Option FrameBody :=
  let held := w4.getLsbD 10
  let yield := w4.getLsbD 9
  let present := w4.getLsbD 6
  if present = (held || yield) then
    some (.claim (high ++ w3) (if w4.getLsbD 15 then .exclusive else .shared) (w4.extractLsb' 11 4) held yield
      (if present then some (w4.extractLsb' 0 6) else none))
  else none

/-- The contents of a CENSUS from the words after the header; none when the count is not 1 to 64 or not the number of
entries the length gives (R77, R78). -/
def parseCensus (count : Word) (rest : List Word) : Option FrameBody :=
  match parseMembers rest with
  | none => none
  | some ms =>
    if (count.extractLsb' 0 7).toNat = ms.length ∧ 1 ≤ ms.length ∧ ms.length ≤ Config.censusCapacity then
      some (.census ms)
    else none

/-- The contents after the header, by the kind field; none for an unknown kind or a wrong length (R78, R189). -/
def parseBody (kind : BitVec 2) (low : Byte) (rest : List Word) : Option FrameBody :=
  if kind = 0b01 then
    match rest with
    | [w3, w4, _] => parseClaim low w3 w4
    | _ => none
  else if kind = 0b10 then
    match rest with
    | [w3, _] => some (.release (low ++ w3))
    | _ => none
  else if kind = 0b11 then
    match rest with
    | count :: members => parseCensus count members
    | [] => none
  else none

/-- The last word is the CRC of the words before it (R78, R190). -/
def crcMatches (ws : List Word) : Bool := ws.getLast? == some (crc16 ws.dropLast)

/-- The frame the words stand for; none when the words themselves make it damaged (R78). -/
def parseFrame (ws : List Word) : Option Frame :=
  match ws with
  | w0 :: w1 :: w2 :: rest =>
    if crcMatches ws then
      match parseBody (w0.extractLsb' 14 2) (w2.extractLsb' 0 8) rest with
      | none => none
      | some body =>
        some { source := w0.extractLsb' 8 6, check := w1, hop := w0.extractLsb' 0 6, serial := w2.extractLsb' 8 8,
               body := body }
    else none
  | _ => none

/-- An arrival as the Frame Processor judges it: none when it is damaged (R78, R95). An overlong frame is damaged by its
length. -/
def Arrival.judge (a : Arrival) : Option Frame :=
  if a.violation || a.overlong || a.cutShort then none else parseFrame a.words

/-! ### Forwarding (R83) -/

/-- Word 0 with the hop count one higher (R83). -/
def bumpHop (w0 : Word) : Word := w0.extractLsb' 6 10 ++ (w0.extractLsb' 0 6 + 1)

/-- Word 4 of a CLAIM with these marks and objector. Without an objector no mark is set and the word stays as it is; with
one, bits 15 to 11 and 8 to 7 stay (R75, R189, log entry 19). -/
def markWord (w4 : Word) (held yield : Bool) : Option StationNo → Word
  | none => w4
  | some n =>
    w4.extractLsb' 11 5 ++ flagBit held ++ flagBit yield ++ w4.extractLsb' 7 2 ++ ((1 : BitVec 1) ++ n)

/-- Word 3 of a CENSUS with this entry count, its other bits unchanged (R84, R189). -/
def countWord (w3 : Word) (count : Nat) : Word := w3.extractLsb' 7 9 ++ BitVec.ofNat 7 count

/-- An arrived frame's words as they are forwarded: changed in their contents, the hop count one higher, the CRC computed
afresh over the words as they now stand (R83). -/
def forwardWords (ws : List Word) (change : List Word → List Word) : List Word :=
  withCrc (((change ws.dropLast)).modify 0 bumpHop)

/-- A CLAIM's words with its marks and objector as the Lease Table left them (R28, R83). -/
def claimChange (held yield : Bool) (objector : Option StationNo) (ws : List Word) : List Word :=
  ws.modify 4 fun w4 => markWord w4 held yield objector

/-- A CENSUS's words with one entry appended and the count raised to `count` (R84). -/
def censusChange (count : Nat) (m : Member) (ws : List Word) : List Word :=
  (ws.modify 3 fun w3 => countWord w3 count) ++ m.words

end Sys2Proof.Machine
end

