-- ==== Sys2Proof/Machine/Operands.lean ====
section
/-! DEFINITION. The operands of the commands: code values of the record fields (R185), argument ranges (R152, R167, R169,
R173, R174), tag windows (R170, R171), and access to the entries and channels that operands name (R12). -/

namespace Sys2Proof.Machine

/-! ### Entries and channels of a state -/

/-- Every entry index, in ascending order (R2). -/
def allIx : List EntryIx := List.finRange 64

/-- The entry with this index. -/
def State.entry (s : State) (i : EntryIx) : Entry := s.lease.entries.get i

/-- The tenancy of an entry, none while it is FREE. -/
def State.tenancy (s : State) (i : EntryIx) : Option Tenancy := (s.entry i).tenancy

/-- Event state and port of a channel. -/
def State.channel (s : State) (c : Channel) : ChannelState := s.channels.get c

/-- The limits of a channel (R168). -/
def State.limits (s : State) (c : Channel) : Limits := s.config.limits.get c

/-- The windows of a channel (R170). -/
def State.windows (s : State) (c : Channel) : Vector Window 4 := s.config.windows.get c

/-- The entry has a tenancy that meets a condition. -/
def State.entryMeets (s : State) (p : Tenancy → Bool) (i : EntryIx) : Bool :=
  match s.tenancy i with
  | some t => p t
  | none => false

/-- The entry has a tenancy on this tag that meets a condition. -/
def State.onTag (s : State) (tag : Tag) (p : Tenancy → Bool) (i : EntryIx) : Bool :=
  s.entryMeets (fun t => t.tag == tag && p t) i

/-- Some entry on this tag meets a condition. -/
def State.anyOn (s : State) (tag : Tag) (p : Tenancy → Bool) : Bool := allIx.any (s.onTag tag p)

/-- The local wait list of a tag, head first (R16). -/
def State.waitList (s : State) (tag : Tag) : List EntryIx := s.lease.waiting.filter (s.onTag tag Tenancy.isQueued)

/-- The non-FREE count of a channel (R13). -/
def State.nonFree (s : State) (c : Channel) : Nat := allIx.countP (s.entryMeets fun t => t.owner == c)

/-- The number of FREE entries (R158). -/
def State.freeCount (s : State) : Nat := allIx.countP fun i => (s.tenancy i).isNone

/-- The FREE entry with the lowest index (R3). -/
def State.lowestFree (s : State) : Option EntryIx := allIx.find? fun i => (s.tenancy i).isNone

/-! ### Handles (R12) -/

/-- What a handle resolves to (R12). -/
inductive Resolved where
  | badHandle
  | gone
  | found (i : EntryIx) (t : Tenancy)
  deriving DecidableEq, Repr

/-- A handle of a commanding channel resolved against the Lease Table; the first matching line of R12 decides. A
generation above 15 matches no entry (R154). -/
def State.resolve (s : State) (ch : Channel) (index generation : Byte) : Resolved :=
  if h : index.toNat < 64 then
    let i : EntryIx := ⟨index.toNat, h⟩
    match s.tenancy i with
    | none => .badHandle
    | some t =>
      if t.owner ≠ ch then .badHandle
      else if (s.entry i).generation.toNat ≠ generation.toNat then .badHandle
      else if t.attached = false then .gone
      else .found i t
  else .badHandle

/-! ### Code values of argument fields (R185) -/

/-- The mode a mode field names (R185); any other value is out of range (R152). -/
def modeOfByte (b : Byte) : Option Mode :=
  if b = 0x01 then some .shared else if b = 0x02 then some .exclusive else none

/-- The channel a target field names, 0 to 3. -/
def channelOfByte (b : Byte) : Option Channel := if h : b.toNat < 4 then some ⟨b.toNat, h⟩ else none

/-- The window a window number names, 0 to 3 (R173). -/
def windowOfByte (b : Byte) : Option WindowIx := if h : b.toNat < 4 then some ⟨b.toNat, h⟩ else none

/-- The routing class a class field names; the value that names VOID is out of range (R174, R185). -/
def routingClassOfByte (b : Byte) : Option RoutingClass :=
  if b = 0x01 then some .ring else if b = 0x02 then some .membership else if b = 0x03 then some .faults else none

/-! ### Argument ranges -/

/-- The numbers of a CLAIM lie in the ranges of check 2 (R152); its mode is checked by modeOfByte. -/
def claimNumbersInRange (limits : Limits) (priority term limit : Nat) : Bool :=
  decide (priority ≤ 7) && decide (1 ≤ term) && decide (term ≤ limits.maxTerm) && decide (1 ≤ limit) &&
    decide (limit ≤ 15)

/-- RENEW's term is 0 or within 1 to the channel's max term (R55, step 2). -/
def renewTermInRange (limits : Limits) (term : Nat) : Bool := decide (term ≤ limits.maxTerm)

/-- Each setting lies in its range (R166). -/
def Settings.inRange (x : Settings) : Bool :=
  decide (2 ≤ x.ringLimit) && decide (x.ringLimit ≤ 64) && decide (1 ≤ x.circuitTimeout) &&
    decide (x.circuitTimeout ≤ 255) && decide (1 ≤ x.retryInterval) && decide (x.retryInterval ≤ 255) &&
    decide (10 ≤ x.censusInterval) && decide (x.censusInterval ≤ 2550) && decide (x.censusInterval % 10 = 0) &&
    decide (x.warningMargin ≤ 255)

/-- The settings that the argument bytes of CONFIGURE STATION carry, when all are in range (R167). -/
def settingsOfBytes (number ringLimit circuitTimeout retryInterval censusSteps margin : Byte) : Option Settings :=
  if number.toNat ≤ 63 ∧ 2 ≤ ringLimit.toNat ∧ ringLimit.toNat ≤ 64 ∧ 1 ≤ circuitTimeout.toNat ∧
      1 ≤ retryInterval.toNat ∧ 1 ≤ censusSteps.toNat then
    some { stationNumber := number.setWidth 6, ringLimit := ringLimit.toNat, circuitTimeout := circuitTimeout.toNat,
           retryInterval := retryInterval.toNat, censusInterval := 10 * censusSteps.toNat,
           warningMargin := margin.toNat }
  else none

/-- The limits that the argument fields of SET CHANNEL LIMITS carry, when all are in range (R169). -/
def limitsOfBytes (quota ceiling : Byte) (maxTerm : Word) : Option Limits :=
  if quota.toNat ≤ 64 ∧ ceiling.toNat ≤ 7 ∧ 1 ≤ maxTerm.toNat then
    some { quota := quota.toNat, ceiling := ceiling.toNat, maxTerm := maxTerm.toNat }
  else none

/-- The four quotas added up (R175). -/
def ConfigStore.quotaSum (c : ConfigStore) : Nat :=
  (c.limits.get 0).quota + (c.limits.get 1).quota + (c.limits.get 2).quota + (c.limits.get 3).quota

/-- START's validation of the configuration (R175). -/
def ConfigStore.valid (c : ConfigStore) : Bool := c.settings.inRange && decide (c.quotaSum ≤ Config.quotaTotal)

/-! ### Tag windows (R170, R171) -/

/-- The window covers the tag: equal to the match at every bit where the mask has a one (R170). -/
def Window.covers (w : Window) (tag : Tag) : Bool := (tag ^^^ w.value) &&& w.mask == 0

/-- The window grants the right for a mode (R171). -/
def Window.grants (w : Window) : Mode → Bool
  | .shared => w.sharedRight
  | .exclusive => w.exclusiveRight

/-- The window alone permits the claim (R171). -/
def Window.permits (w : Window) (tag : Tag) (m : Mode) : Bool := w.enabled && w.covers tag && w.grants m

/-- At least one of a channel's windows permits the claim (R171). -/
def State.windowsPermit (s : State) (ch : Channel) (tag : Tag) (m : Mode) : Bool :=
  (List.finRange 4).any fun k => ((s.windows ch).get k).permits tag m

/-- The channel has an attached entry on the tag (R7, CLAIM check 5). -/
def State.hasAttached (s : State) (ch : Channel) (tag : Tag) : Bool :=
  s.anyOn tag fun t => t.owner == ch && t.attached

/-- The channel a routing class names (R131, R174). -/
def Routing.channelOf (r : Routing) : RoutingClass → Channel
  | .ring => r.ring
  | .membership => r.membership
  | .faults => r.faults

/-- The table with the channel of one class replaced (R174). -/
def Routing.set (r : Routing) (c : RoutingClass) (target : Channel) : Routing :=
  match c with
  | .ring => { r with ring := target }
  | .membership => { r with membership := target }
  | .faults => { r with faults := target }

end Sys2Proof.Machine
end

