-- ==== Sys2Proof/Machine/Ops.lean ====
section
/-! DEFINITION. The shared operations of the blocks that own the state: the Event Block (chapter 7), the Lease Table
(chapters 1 to 3), the Station Controller (chapter 6), the Line Interface (chapter 5) and the Frame Processor's passing
of frames (chapter 4). Every meaning is written over these. -/

namespace Sys2Proof.Machine

/-! ### Updates -/

/-- The state with one entry replaced. -/
def State.setEntry (s : State) (i : EntryIx) (e : Entry) : State :=
  { s with lease := { s.lease with entries := s.lease.entries.set i.val e i.isLt } }

/-- The state with the tenancy of an entry changed; a FREE entry stays as it is. -/
def State.modifyTenancy (s : State) (i : EntryIx) (f : Tenancy → Tenancy) : State :=
  s.setEntry i { s.entry i with tenancy := (s.tenancy i).map f }

/-- The state with one channel changed. -/
def State.modifyChannel (s : State) (c : Channel) (f : ChannelState → ChannelState) : State :=
  { s with channels := s.channels.set c.val (f (s.channel c)) c.isLt }

/-- The state with the station record changed. -/
def State.modifyStation (s : State) (f : StationRecord → StationRecord) : State := { s with station := f s.station }

/-- The state with the Line Interface changed. -/
def State.modifyLine (s : State) (f : LineInterface → LineInterface) : State := { s with line := f s.line }

/-- The state with the Frame Processor changed. -/
def State.modifyFrames (s : State) (f : FrameProcessor → FrameProcessor) : State := { s with frames := f s.frames }

/-- The state with the configuration changed. -/
def State.modifyConfig (s : State) (f : ConfigStore → ConfigStore) : State := { s with config := f s.config }

/-- The state with the wait lists replaced. -/
def State.setWaiting (s : State) (w : List EntryIx) : State := { s with lease := { s.lease with waiting := w } }

/-- The state with the Lease Table's view of the station state replaced. -/
def State.setTaken (s : State) (x : StationState) : State := { s with lease := { s.lease with taken := x } }

/-- The state with the untaken changes replaced. -/
def State.setChanges (s : State) (cs : List StationState) : State := { s with lease := { s.lease with changes := cs } }

/-- The state with the send list replaced. -/
def State.setSendList (s : State) (l : List SendItem) : State := { s with frames := { s.frames with sendList := l } }

/-! ### The Event Block (chapter 7) -/

/-- The queue holds fewer than 24 records and the deferral list is empty (R132, R136). -/
def ChannelState.hasRoom (c : ChannelState) : Bool :=
  decide (c.queue.length < Config.queueCapacity) && c.deferral.isEmpty

/-- A record joins the tail of the queue (R126). -/
def ChannelState.enqueue (c : ChannelState) (r : EventRecord) : ChannelState := { c with queue := c.queue ++ [r] }

/-- An item joins the tail of the deferral list (R133). -/
def ChannelState.defer (c : ChannelState) (item : DeferralItem) : ChannelState :=
  { c with deferral := c.deferral ++ [item] }

/-- An event of a class is suppressed: the class joins the marker's set, or a new marker joins the tail (R136). -/
def ChannelState.suppress (c : ChannelState) (cls : EventClass) : ChannelState :=
  if c.deferral.any DeferralItem.isMarker then { c with deferral := c.deferral.map (DeferralItem.addClass cls) }
  else c.defer (.marker (({} : Suppressed).add cls))

/-- A station event or VOID raised to a channel: queued, or suppressed into the marker (R136). -/
def ChannelState.raise (c : ChannelState) (cls : EventClass) (r : EventRecord) : ChannelState :=
  if c.hasRoom then c.enqueue r else c.suppress cls

/-- The notice of an entry as it is raised now: its handle, its tag and the present timestamp (R128, R129). -/
def State.noticeOf (s : State) (i : EntryIx) (t : Tenancy) (kind : LeaseKind) (marks : Marks) : LeaseNotice :=
  { kind := kind, timestamp := s.station.timestamp, index := i, generation := (s.entry i).generation, tag := t.tag,
    marks := marks }

/-- A lease notice raised to the owner of an entry: it joins the owner's queue, or waits in the entry's slot, where it is
combined with a notice already there (R132, R134). A FREE entry raises nothing. DESIGN CHOICE (log entry 26): after a READ EVENT
that delivered the last deferred item the queue holds 24 records again, and a notice then raised is deferred, as R126 and R132
have it, although R140 says that it joins the queue if the list is now empty. -/
def State.raiseLease (s : State) (i : EntryIx) (kind : LeaseKind) (marks : Marks) : State :=
  match s.tenancy i with
  | none => s
  | some t =>
    let n := s.noticeOf i t kind marks
    if (s.channel t.owner).hasRoom then s.modifyChannel t.owner (·.enqueue (.lease n))
    else
      match t.deferred with
      | none => (s.modifyTenancy i ({ · with deferred := some n })).modifyChannel t.owner (·.defer (.entry i))
      | some held => s.modifyTenancy i ({ · with deferred := some (held.combine n) })

/-- A station event of a routing class raised to the channel the routing table names (R131). -/
def State.raiseStation (s : State) (c : RoutingClass) (r : EventRecord) : State :=
  s.modifyChannel (s.config.routing.channelOf c) (·.raise c.eventClass r)

/-- RING_STATE raised with the present timestamp (R123). -/
def State.raiseRingState (s : State) (cause : RingCause) (newState : StationState) (dup : Option StationNo) : State :=
  s.raiseStation .ring (.ringState s.station.timestamp cause newState dup)

/-- VOID with cause LEFT raised to one channel (R121, R131). -/
def State.raiseVoid (s : State) (c : Channel) : State :=
  s.modifyChannel c (·.raise .void (.void s.station.timestamp))

/-- An entry's deferred notice is discarded and the entry leaves its owner's deferral list (R141). -/
def State.discardDeferred (s : State) (i : EntryIx) : State :=
  match s.tenancy i with
  | none => s
  | some t =>
    match t.deferred with
    | none => s
    | some _ =>
      (s.modifyTenancy i ({ · with deferred := none })).modifyChannel t.owner
        (fun c => { c with deferral := c.deferral.filter (· != .entry i) })

/-! ### Tenancies (R4, R6, R9) -/

/-- A send item names this entry (R86). -/
def SendItem.isOf (i : EntryIx) : SendItem → Bool
  | .claim j | .release j => i == j
  | .census => false

/-- The entry's send list item is removed, if it has one (R9, R87). -/
def State.dropItem (s : State) (i : EntryIx) : State :=
  s.setSendList (s.frames.sendList.filter fun x => !x.isOf i)

/-- The entry leaves the wait lists (R9, R17). -/
def State.leaveWaiting (s : State) (i : EntryIx) : State := s.setWaiting (s.lease.waiting.filter (· != i))

/-- The end of a tenancy (R9): the timer of the state goes with the state, the send list item and the wait-list place
are given up, and the entry becomes CLOSING when its slot holds a notice, else FREE. -/
def State.endTenancy (s : State) (i : EntryIx) : State :=
  let s' := (s.dropItem i).leaveWaiting i
  match s.tenancy i with
  | none => s'
  | some t =>
    match t.deferred with
    | none => s'.setEntry i { s.entry i with tenancy := none }
    | some _ => s'.modifyTenancy i ({ · with state := .closing })

/-- The entry is detached (R8). -/
def State.detach (s : State) (i : EntryIx) : State := s.modifyTenancy i ({ · with attached := false })

/-- Entering CLAIMING (R6): lost flag clear, frame QUEUED, a claim item at the tail of the send list. -/
def State.enterClaiming (s : State) (i : EntryIx) : State :=
  (s.modifyTenancy i ({ · with state := .claiming .queued false })).setSendList (s.frames.sendList ++ [.claim i])

/-- Entering RELEASING (R6, R59): detached, frame QUEUED, a release item at the tail of the send list. -/
def State.enterReleasing (s : State) (i : EntryIx) : State :=
  (s.modifyTenancy i ({ · with attached := false, state := .releasing .queued })).setSendList
    (s.frames.sendList ++ [.release i])

/-- Entering HELD (R6): remaining term is the term, and the flags are clear. -/
def Tenancy.enterHeld (t : Tenancy) : Tenancy :=
  { t with state := .held t.term false, contendedNotified := false, expiringNotified := false }

/-- Entering HELD, with GRANTED raised to the owner (R36, R19, R22, R58). -/
def State.grant (s : State) (i : EntryIx) (handedOn : Bool) : State :=
  let s' := s.modifyTenancy i Tenancy.enterHeld
  match s.tenancy i with
  | none => s
  | some t => s'.raiseLease i (.granted t.mode) { handedOn := handedOn }

/-- DENIED raised to the owner and the tenancy ended (R39, R42, R23, R47). -/
def State.deny (s : State) (i : EntryIx) (cause : DenyCause) (objector : Option StationNo) : State :=
  match s.tenancy i with
  | none => s
  | some t => (s.raiseLease i (.denied cause objector t.attempts) {}).endTenancy i

/-! ### Acceptance and the wait lists (R18 to R23) -/

/-- The cases of acceptance that look at the other entries on the tag (R18 to R20, R22): blocked is case 1 by an entry,
join and wait are case 2, claim is case 3. -/
inductive Acceptance where
  | blocked
  | join
  | wait
  | claim
  deriving DecidableEq, Repr

/-- The first case that applies to a claim of this mode, the wait list apart. -/
def State.acceptance (s : State) (tag : Tag) (m : Mode) : Acceptance :=
  if s.anyOn tag Tenancy.blocks then .blocked
  else if s.anyOn tag Tenancy.isHeld then
    if m == .shared && !s.anyOn tag Tenancy.isHeldExclusive then .join else .wait
  else .claim

/-- The cause of a denial in the station state the Lease Table has taken (R23). -/
def denialCause : StationState → DenyCause
  | .halted => .halted
  | .offline | .joining | .up | .down => .ringDown

/-- What an examination does with the head of a wait list, and whether it goes on to the next head (R22, R23). -/
def State.treatHead (s : State) (i : EntryIx) (tag : Tag) (m : Mode) : State × Bool :=
  match s.acceptance tag m with
  | .blocked | .wait => (s, false)
  | .join => ((s.leaveWaiting i).grant i false, true)
  | .claim =>
    if s.lease.taken = .up then ((s.leaveWaiting i).enterClaiming i, false)
    else ((s.leaveWaiting i).deny i (denialCause s.lease.taken) none, true)

/-- Heads treated one after another, at most `fuel` of them. Each head that lets the examination go on has left the
list, so the length of the list is fuel enough. -/
def State.examineLoop (tag : Tag) : Nat → State → State
  | 0, s => s
  | fuel + 1, s =>
    match s.waitList tag with
    | [] => s
    | i :: _ =>
      match s.tenancy i with
      | none => s
      | some t =>
        let r := s.treatHead i tag t.mode
        if r.2 then State.examineLoop tag fuel r.1 else r.1

/-- The examination of the wait list of a tag (R21, R22). -/
def State.examine (s : State) (tag : Tag) : State := s.examineLoop tag (s.waitList tag).length

/-- The tag handed on to the head of its wait list (R58). -/
def State.handOn (s : State) (tag : Tag) : State :=
  match s.waitList tag with
  | [] => s
  | i :: _ => (s.leaveWaiting i).grant i true

/-- An examination that opens with the hand-on when the release procedure has decided for it (R21, R58). -/
def State.examineAfter (s : State) (tag : Tag) (handOn : Bool) : State :=
  (if handOn then s.handOn tag else s).examine tag

/-! ### The release procedure (R57 to R60) -/

/-- How a tag passes on from an entry that leaves HELD. -/
inductive Passing where
  | otherHolders
  | handOn
  | ringRelease
  | noFrame
  deriving DecidableEq, Repr

/-- Another entry than this one is HELD on the tag (R57). -/
def State.otherHolder (s : State) (i : EntryIx) (tag : Tag) : Bool :=
  allIx.any fun j => j != i && s.onTag tag Tenancy.isHeld j

/-- The decision of the release procedure for an entry of this tag, mode and remote demand (3.3). -/
def State.passing (s : State) (i : EntryIx) (tag : Tag) (m : Mode) (demand : Bool) : Passing :=
  if s.otherHolder i tag then .otherHolders
  else if m == .exclusive && !demand && !(s.waitList tag).isEmpty then .handOn
  else if s.lease.taken = .up then .ringRelease
  else .noFrame

/-- A HELD entry leaves HELD by the release procedure and is detached (R8, R57 to R60). The second part says that the
examination of its tag opens with a hand-on. An entry that is not HELD is left as it is. -/
def State.leaveHeld (s : State) (i : EntryIx) : State × Bool :=
  match s.tenancy i with
  | none => (s, false)
  | some t =>
    match t.state with
    | .held _ demand =>
      let s' := s.detach i
      match s.passing i t.tag t.mode demand with
      | .otherHolders | .noFrame => (s'.endTenancy i, false)
      | .handOn => (s'.endTenancy i, true)
      | .ringRelease => (s'.enterReleasing i, false)
    | .queuedLocal | .claiming _ _ | .backoff _ | .releasing _ | .closing => (s, false)

/-- The release procedure with the examination that follows it (R54, R67). -/
def State.releaseHeld (s : State) (i : EntryIx) (tag : Tag) : State :=
  let r := s.leaveHeld i
  r.1.examineAfter tag r.2

/-! ### Tags on which an event changed several entries (R21, R47, R71) -/

/-- A tag put into an ascending list without repeats. -/
def insertTag (tag : Tag) : List Tag → List Tag
  | [] => [tag]
  | x :: xs =>
    if tag.toNat < x.toNat then tag :: x :: xs
    else if tag = x then x :: xs
    else x :: insertTag tag xs

/-- The tags of the entries whose tenancy meets a condition, in ascending order of tag value. -/
def State.tagsOf (s : State) (p : Tenancy → Bool) : List Tag :=
  allIx.foldr (fun i acc =>
    match s.tenancy i with
    | some t => if p t then insertTag t.tag acc else acc
    | none => acc) []

/-- The examination of each tag once, in the order of the list; the tags of `handOns` open with a hand-on. -/
def State.examineTags (s : State) (tags handOns : List Tag) : State :=
  tags.foldl (fun s tag => s.examineAfter tag (handOns.contains tag)) s

/-! ### Failed attempts (R37 to R39, R42) -/

/-- The backoff timer's start (R38, R42). -/
def State.backoffTime (s : State) (cause : FailCause) : Nat :=
  match cause with
  | .held => 4 * s.config.settings.retryInterval
  | .yield | .lost | .timeout => s.config.settings.retryInterval

/-- A failed attempt of an attached CLAIMING entry: the last refusal is recorded, and the entry goes to BACKOFF, or is
denied at its attempt limit with its wait list examined (R37, R38, R39, R42). -/
def State.failAttempt (s : State) (i : EntryIx) (cause : FailCause) (objector : Option StationNo) : State :=
  match s.tenancy i with
  | none => s
  | some t =>
    let s' := s.modifyTenancy i ({ · with lastRefusal := some { cause := cause, objector := objector } })
    if t.attempts < t.attemptLimit then
      s'.modifyTenancy i ({ · with state := .backoff (s.backoffTime cause) })
    else (s'.deny i cause.denyCause objector).examine t.tag

/-- A tenancy that ends without notice, with its wait list examined (R10, R35, R43, R64, R65). -/
def State.endAndExamine (s : State) (i : EntryIx) (tag : Tag) : State := (s.endTenancy i).examine tag

/-! ### READ EVENT (R135, R137 to R139) -/

/-- The STATION_SUMMARY built now from a marker's set (R137). -/
def State.summary (s : State) (set : Suppressed) : EventRecord :=
  .stationSummary s.station.timestamp s.station.view.length s.station.faultScore s.station.faultWarning set

/-- The oldest item of the channel's deferral list, given as the list, joins the tail of the queue (R139). Delivery of a
CLOSING entry's notice makes the entry FREE with its wait list examined (R135). An entry item without a notice, which no
run has, is passed over (log entry 17). -/
def State.moveIn (c : Channel) : List DeferralItem → State → State
  | [], s => s.modifyChannel c ({ · with deferral := [] })
  | .marker set :: rest, s =>
    s.modifyChannel c (fun x => { x with deferral := rest, queue := x.queue ++ [s.summary set] })
  | .entry i :: rest, s =>
    match (s.tenancy i).bind Tenancy.deferred, s.tenancy i with
    | some n, some t =>
      let s1 := (s.modifyChannel c (fun x => { x with deferral := rest, queue := x.queue ++ [.lease n] })).modifyTenancy i
        ({ · with deferred := none })
      if t.state = .closing then s1.endAndExamine i t.tag else s1
    | _, _ => State.moveIn c rest s

/-- READ EVENT at the Event Block (R138, R139): the head record is handed to the port and the oldest deferred item moves
in; from an empty queue the port is handed EMPTY. -/
def State.readEvent (s : State) (c : Channel) : State :=
  match (s.channel c).queue with
  | [] => s.modifyChannel c ({ · with readCopy := .event (.empty s.station.timestamp) })
  | r :: rest =>
    State.moveIn c (s.channel c).deferral (s.modifyChannel c ({ · with queue := rest, readCopy := .event r }))

/-! ### A channel reset (R71, R142) -/

/-- The slot of an entry of the channel emptied (R142). -/
def Entry.emptySlotOf (c : Channel) (e : Entry) : Entry :=
  { e with tenancy := e.tenancy.map fun t => if t.owner = c then { t with deferred := none } else t }

/-- The Event Block's part of a channel reset: queue, deferral list with its marker, and the slots of the channel's
entries emptied (R142). -/
def State.resetEvents (s : State) (c : Channel) : State :=
  State.modifyChannel { s with lease := { s.lease with entries := s.lease.entries.map (Entry.emptySlotOf c) } } c
    ({ · with queue := [], deferral := [] })

/-- The entries that a channel reset makes FREE at once (R71). -/
def Tenancy.resetFrees (t : Tenancy) : Bool :=
  match t.state with
  | .queuedLocal | .backoff _ | .claiming .queued _ | .closing => true
  | .claiming (.inFlight _ _) _ | .held _ _ | .releasing _ => false

/-- The entries on which a channel reset acts (R71): all but RELEASING and detached CLAIMING IN_FLIGHT. -/
def Tenancy.resetTouches (t : Tenancy) : Bool :=
  match t.state with
  | .queuedLocal | .backoff _ | .claiming .queued _ | .closing | .held _ _ => true
  | .claiming (.inFlight _ _) _ => t.attached
  | .releasing _ => false

/-- A channel reset makes one entry FREE, if it is the channel's and of a kind that R71 frees. -/
def State.resetFree (c : Channel) (s : State) (i : EntryIx) : State :=
  if s.entryMeets (fun t => t.owner == c && t.resetFrees) i then s.endTenancy i else s

/-- A channel reset detaches one entry, if it is the channel's CLAIMING entry in flight (R71). -/
def State.resetDetach (c : Channel) (s : State) (i : EntryIx) : State :=
  if s.entryMeets (fun t => t.owner == c && t.state.name == .claiming) i then s.detach i else s

/-- A channel reset takes one entry out of HELD, if it is the channel's; the tags handed on are kept for the
examinations (R71). -/
def State.resetRelease (c : Channel) (r : State × List Tag) (i : EntryIx) : State × List Tag :=
  match r.1.tenancy i with
  | some t =>
    if t.owner == c && t.isHeld then
      let x := r.1.leaveHeld i
      (x.1, if x.2 then t.tag :: r.2 else r.2)
    else r
  | none => r

/-- A channel reset: the event state, the entries freed, detached and released, then one examination of each tag on which
an entry changed, in ascending order of tag value (R71, R142; log entry 18). -/
def State.channelReset (s : State) (c : Channel) : State :=
  let tags := s.tagsOf fun t => t.owner == c && t.resetTouches
  let s1 := s.resetEvents c
  let s2 := allIx.foldl (State.resetFree c) s1
  let s3 := allIx.foldl (State.resetDetach c) s2
  let r := allIx.foldl (State.resetRelease c) (s3, [])
  r.1.examineTags tags r.2

/-! ### The Lease Table and the station state (R47, log entry 11) -/

/-- The Lease Table is told of a change. A change to UP has no effect of its own at the table: it is taken at once, or
right after the changes told before it. -/
def State.tellLease (s : State) (x : StationState) : State :=
  if x = .up ∧ s.lease.changes = [] then s.setTaken .up else s.setChanges (s.lease.changes ++ [x])

/-- The entries a change to DOWN or HALTED ends (R47, R66). -/
def Tenancy.endsOnChange (t : Tenancy) : Bool :=
  match t.state with
  | .claiming _ _ | .backoff _ | .releasing _ => true
  | .queuedLocal | .held _ _ | .closing => false

/-- What a change to DOWN or HALTED does to one entry (R47, R66): attached CLAIMING and BACKOFF entries are denied,
detached CLAIMING and RELEASING entries end without notice. -/
def State.changeEntry (cause : DenyCause) (s : State) (i : EntryIx) : State :=
  match s.tenancy i with
  | none => s
  | some t =>
    match t.state with
    | .claiming _ _ => if t.attached then s.deny i cause none else s.endTenancy i
    | .backoff _ => s.deny i cause none
    | .releasing _ => s.endTenancy i
    | .queuedLocal | .held _ _ | .closing => s

/-- The Lease Table takes one change to DOWN or HALTED (R47): the new state and the changes to the entries together,
then one examination of each tag on which an entry changed. -/
def State.applyChange (s : State) (x : StationState) : State :=
  let tags := s.tagsOf Tenancy.endsOnChange
  let s1 := allIx.foldl (State.changeEntry (denialCause x)) (s.setTaken x)
  s1.examineTags tags []

/-- A return to UP that stands first among the untaken changes is taken without effect (R49). -/
def State.absorbUp (s : State) : State :=
  match s.lease.changes with
  | .up :: rest => (s.setTaken .up).setChanges rest
  | _ => s

/-- The Lease Table takes the oldest change it has been told, and with it a return to UP told right after (R47, R49). -/
def State.takeChange (s : State) : State :=
  match s.lease.changes with
  | [] => s
  | .up :: _ => s.absorbUp
  | x :: rest => ((s.setChanges rest).applyChange x).absorbUp

/-- The Lease Table takes changes it has been told, oldest first, as many times as given. -/
def State.takeChangesN : Nat → State → State
  | 0, s => s
  | n + 1, s => State.takeChangesN n s.takeChange

/-- The Lease Table takes every change it has been told. -/
def State.takeChanges (s : State) : State := State.takeChangesN s.lease.changes.length s

/-! ### The Station Controller (chapter 6) -/

/-- A census item is added, while the census is NONE (R109). -/
def State.addCensus (s : State) : State :=
  if s.station.census = .none then
    (s.modifyStation ({ · with census := .queued, awaitsUpstream := false })).setSendList
      (s.frames.sendList ++ [.census])
  else s

/-- The upstream detector is PRESENT. -/
def State.upstreamIsPresent (s : State) : Bool :=
  match s.line.detector with
  | .present _ => true
  | .silent => false

/-- A census in flight is abandoned; any other condition stays (R109). -/
def Census.abandon : Census → Census
  | .inFlight _ _ _ => .none
  | .none => .none
  | .queued => .queued

/-- An UP station enters DOWN (R118); in every other state the event changes no state. -/
def State.enterDown (s : State) (cause : RingCause) : State :=
  if s.station.state = .up then
    ((s.modifyStation fun r =>
        { r with state := .down, census := r.census.abandon, censusLosses := 0 }).raiseRingState cause .down none).tellLease
      .down
  else s

/-- A duplicate report takes a JOINING, UP or DOWN station to HALTED (R120); in HALTED and OFFLINE it has no effect. -/
def State.enterHalted (s : State) : State :=
  if s.station.state = .joining ∨ s.station.state = .up ∨ s.station.state = .down then
    let s1 := s.modifyStation fun r =>
      { r with state := .halted, census := .none, awaitsUpstream := false, holdOff := none, interval := none,
               censusLosses := 0 }
    let s2 := s1.setSendList (s.frames.sendList.filter (· != .census))
    (s2.raiseRingState .duplicate .halted (some s.config.settings.stationNumber)).tellLease .halted
  else s

/-- A damaged arrival at the fault score, its warning, and at saturation the station (R115 to R117). -/
def State.reportDamaged (s : State) : State :=
  let score := scoreDamaged s.station.faultScore
  let s1 := s.modifyStation ({ · with faultScore := score })
  let s2 :=
    if s.station.faultWarning = false ∧ Config.warnAt ≤ score then
      (s1.modifyStation ({ · with faultWarning := true })).raiseStation .faults
        (.faultWarning s.station.timestamp score true)
    else s1
  if score = Config.scoreMax then s2.enterDown .faults else s2

/-- An intact arrival at the fault score and its warning (R115, R116). -/
def State.reportIntact (s : State) : State :=
  let score := scoreIntact s.station.faultScore
  let s1 := s.modifyStation ({ · with faultScore := score })
  if s.station.faultWarning = true ∧ score < Config.warnClearBelow then
    (s1.modifyStation ({ · with faultWarning := false })).raiseStation .faults
      (.faultWarning s.station.timestamp score false)
  else s1

/-- The list names this station's number with another identity (R84, R111, R120). -/
def State.listsDuplicate (s : State) (members : List Member) : Bool :=
  members.any fun m => m.number == s.config.settings.stationNumber && m.identity != s.identity

/-- The list names this station's number with this part's identity (R84). -/
def State.listsSelf (s : State) (members : List Member) : Bool :=
  members.any fun m => m.number == s.config.settings.stationNumber && m.identity == s.identity

/-- MEMBERSHIP raised when the sequence of station numbers differs from the previous view's (R112, R114). -/
def State.raiseMembership (s : State) (previous members : List Member) : State :=
  if previous.map Member.number = members.map Member.number then s
  else s.raiseStation .membership (.membership s.station.timestamp members.length)

/-- The station enters UP on the adoption of a census list: view, losses, state, interval timer, RING_STATE (R112). The
Lease Table's view of the state follows (R49). -/
def State.enterUp (s : State) (members : List Member) (cause : RingCause) : State :=
  ((s.modifyStation fun r =>
      { r with state := .up, view := members, censusLosses := 0,
               interval := some s.config.settings.censusInterval }).raiseRingState cause .up none).tellLease .up

/-- A matched census return with no duplicate, by station state (R112). -/
def State.adoptCensus (s : State) (members : List Member) : State :=
  match s.station.state with
  | .joining => s.enterUp members .joined
  | .up =>
    (s.modifyStation ({ · with view := members, censusLosses := 0 })).raiseMembership s.station.view members
  | .down =>
    if s.station.faultScore ≤ Config.trustScore then
      (s.enterUp members .recovered).raiseMembership s.station.view members
    else s.modifyStation ({ · with censusLosses := 0 })
  | .offline | .halted => s

/-- The last circuit time of a return (R111): the difference of the two readings, within 1 to 255000 us (log entry 13). -/
def circuitTime (origin now : Nat) : Nat := max 1 (min 255000 (now - origin))

/-- An own CENSUS returns (R111): matched by serial, its circuit time recorded, its list searched for a duplicate after
the first entry, else adopted. An unmatched one is stripped. -/
def State.censusReturn (s : State) (serial : Byte) (members : List Member) : State :=
  match s.station.census with
  | .inFlight serial' origin _ =>
    if serial = serial' then
      let s1 := s.modifyStation
        ({ · with census := .none, lastCircuit := circuitTime origin s.time.micros })
      if s1.listsDuplicate members.tail then s1.enterHalted else s1.adoptCensus members
    else s
  | .none | .queued => s

/-- The bypass is closed (R102, R122): BYPASSED, the station OFFLINE, leaving clear. The Lease Table's view of the state
follows (log entry 11). -/
def State.bypassClosed (s : State) : State :=
  ((s.modifyLine ({ · with mode := .bypassed })).modifyStation
    ({ · with state := .offline, leaving := false })).setTaken .offline

/-- LEAVE at the Line Interface (R102): the bypass closes at once, or after the frame on ring-out. A partial frame in the
receive store is discarded. The frames completed before have been judged (`State.judgeWaiting`, R104, log entry 9). -/
def State.lineLeave (s : State) : State :=
  let s1 := (s.modifyLine ({ · with detector := .silent, receiver := .between, transit := [] })).modifyFrames
    ({ · with arrivals := [] })
  match s.line.mode, s.line.transmitter with
  | .inserted, .sending _ _ => s1.modifyLine ({ · with mode := .draining })
  | .inserted, .idle _ | .inserted, .ended | .settling _, _ => s1.bypassClosed
  | .bypassed, _ | .draining, _ => s

/-- Every entry made FREE, keeping its generation (R3, R50). -/
def LeaseTable.freeAll (l : LeaseTable) : LeaseTable :=
  { l with entries := l.entries.map ({ · with tenancy := none }), waiting := [] }

/-- The Lease Table's part of LEAVE (R121 step 2, R143): every entry FREE, every deferred notice discarded, no wait list,
and no change left to take (log entry 11). The deferral lists keep their markers. -/
def State.freeEntries (s : State) : State :=
  { s with
    lease := { s.lease.freeAll with changes := [] },
    channels := s.channels.map fun c => { c with deferral := c.deferral.filter DeferralItem.isMarker } }

/-- LEAVE taken by the Station Controller, in the order of R121. -/
def State.takeLeave (s : State) : State :=
  let s1 := s.modifyStation fun r =>
    { r with leaving := true, holdOff := none, interval := none, census := .none, censusLosses := 0,
             awaitsUpstream := false }
  let s2 := (s1.freeEntries).setSendList []
  let s3 := s2.modifyStation ({ · with view := [] })
  let s4 := (((s3.raiseVoid 0).raiseVoid 1).raiseVoid 2).raiseVoid 3
  (s4.raiseRingState .left .offline none).lineLeave

/-- START accepted, in the order of R107, with ENTER SETTLING at the Line Interface (R100). -/
def State.takeStart (s : State) : State :=
  let s1 := s.modifyStation fun r =>
    { r with faultScore := 0, faultWarning := false, timestamp := 0, census := .none, censusLosses := 0,
             lastCircuit := 0, awaitsUpstream := false, holdOff := none, interval := none, state := .joining }
  ((s1.raiseRingState .started .joining none).setTaken .joining).modifyLine
    ({ · with mode := .settling Config.settleMicros })

/-! ### Own frames coming home (R34 to R39, R64) -/

/-- The entry is CLAIMING in flight with this serial and tag (R34). -/
def Tenancy.claimInFlight (serial : Byte) (tag : Tag) (t : Tenancy) : Bool :=
  match t.state with
  | .claiming (.inFlight serial' _) _ => serial == serial' && t.tag == tag
  | .claiming .queued _ | .queuedLocal | .backoff _ | .held _ _ | .releasing _ | .closing => false

/-- The entry is RELEASING in flight with this serial and tag (R64). -/
def Tenancy.releaseInFlight (serial : Byte) (tag : Tag) (t : Tenancy) : Bool :=
  match t.state with
  | .releasing (.inFlight serial' _) => serial == serial' && t.tag == tag
  | .releasing .queued | .queuedLocal | .claiming _ _ | .backoff _ | .held _ _ | .closing => false

/-- The lost flag, clear outside CLAIMING (R2). -/
def Tenancy.lost (t : Tenancy) : Bool :=
  match t.state with
  | .claiming _ lost => lost
  | .queuedLocal | .backoff _ | .held _ _ | .releasing _ | .closing => false

/-- An own CLAIM returns (R34 to R39). An unmatched one is stripped (R44). -/
def State.claimReturn (s : State) (serial : Byte) (tag : Tag) (held yield : Bool) (objector : Option StationNo) :
    State :=
  match allIx.find? (s.entryMeets (Tenancy.claimInFlight serial tag)) with
  | none => s
  | some i =>
    match s.tenancy i with
    | none => s
    | some t =>
      if t.attached = false then s.endAndExamine i tag
      else if held then s.failAttempt i .held objector
      else if yield then s.failAttempt i .yield objector
      else if t.lost then s.failAttempt i .lost none
      else (s.grant i false).examine tag

/-- An own RELEASE returns (R64). An unmatched one is stripped. -/
def State.releaseReturn (s : State) (serial : Byte) (tag : Tag) : State :=
  match allIx.find? (s.entryMeets (Tenancy.releaseInFlight serial tag)) with
  | none => s
  | some i => s.endAndExamine i tag

/-! ### Foreign frames passing (R28 to R33, R41, R82 to R84) -/

/-- The station's position on a tag (R14). -/
inductive Position where
  | holdingExclusive
  | holdingShared
  | pending (i : EntryIx) (mode : Mode) (standing : Nat)
  | none
  deriving DecidableEq, Repr

/-- The current standing of a pending entry (R14, R24). -/
def Tenancy.standing (t : Tenancy) : Nat :=
  match t.state with
  | .claiming phase _ => standingOf t.priority (phase.attemptNumber t.attempts)
  | .queuedLocal | .backoff _ | .held _ _ | .releasing _ | .closing => 0

/-- The station's position on a tag, worked out from its entries; the first that applies is taken (R14). -/
def State.position (s : State) (tag : Tag) : Position :=
  if s.anyOn tag Tenancy.isHeldExclusive then .holdingExclusive
  else if s.anyOn tag Tenancy.isHeld then .holdingShared
  else
    match allIx.find? (s.onTag tag Tenancy.isPending) with
    | some i =>
      match s.tenancy i with
      | some t => .pending i t.mode t.standing
      | none => .none
    | none => .none

/-- The marks and objector of a passing CLAIM (R33). -/
structure ClaimMarks where
  held : Bool
  yield : Bool
  objector : Option StationNo
  deriving DecidableEq, Repr

/-- This station's number written as objector when none is present (R29, R33). -/
def ClaimMarks.objectBy (m : ClaimMarks) (station : StationNo) : ClaimMarks :=
  { m with objector := some (m.objector.getD station) }

/-- One HELD entry on the tag of a marked claim: remote demand set, CONTENDED raised once in its tenancy (R29, R30). -/
def State.demandOn (tag : Tag) (claimant : StationNo) (s : State) (i : EntryIx) : State :=
  match s.tenancy i with
  | none => s
  | some t =>
    match t.state with
    | .held remaining _ =>
      if t.tag = tag then
        let s1 := s.modifyTenancy i ({ · with state := .held remaining true, contendedNotified := true })
        if t.contendedNotified then s1 else s1.raiseLease i (.contended claimant) {}
      else s
    | .queuedLocal | .claiming _ _ | .backoff _ | .releasing _ | .closing => s

/-- The station objects as a holder (R29): the HELD mark, the objector, remote demand and CONTENDED on every HELD entry
on the tag in ascending order of index. -/
def State.objectAsHolder (s : State) (tag : Tag) (claimant : StationNo) (m : ClaimMarks) : State × ClaimMarks :=
  (allIx.foldl (State.demandOn tag claimant) s,
    ClaimMarks.objectBy { m with held := true } s.config.settings.stationNumber)

/-- The pending entry's lost flag set (R31). -/
def Tenancy.setLost (t : Tenancy) : Tenancy :=
  match t.state with
  | .claiming phase _ => { t with state := .claiming phase true }
  | .queuedLocal | .backoff _ | .held _ _ | .releasing _ | .closing => t

/-- A contest between the pending entry and a passing claim (R31). Equal standing and equal number both marks the frame
and loses the entry. -/
def State.contest (s : State) (i : EntryIx) (own standing : Nat) (claimant : StationNo) (m : ClaimMarks) :
    State × ClaimMarks :=
  let here := s.config.settings.stationNumber
  if better own here standing claimant then (s, ClaimMarks.objectBy { m with yield := true } here)
  else if better standing claimant own here then (s.modifyTenancy i Tenancy.setLost, m)
  else (s.modifyTenancy i Tenancy.setLost, ClaimMarks.objectBy { m with yield := true } here)

/-- A foreign CLAIM passes the Lease Table (R28 to R32): the first case that fits the station's position. -/
def State.claimPasses (s : State) (tag : Tag) (mode : Mode) (standing : Nat) (claimant : StationNo) (m : ClaimMarks) :
    State × ClaimMarks :=
  match s.position tag with
  | .holdingExclusive => s.objectAsHolder tag claimant m
  | .holdingShared => if mode = .exclusive then s.objectAsHolder tag claimant m else (s, m)
  | .pending i mode' own => if mode.conflicts mode' then s.contest i own standing claimant m else (s, m)
  | .none => (s, m)

/-- BACKOFF. -/
def Tenancy.isBackoff (t : Tenancy) : Bool := t.state.name == .backoff

/-- A foreign RELEASE ends a backoff on its tag at once (R41). -/
def State.releasePasses (s : State) (tag : Tag) : State :=
  match allIx.find? (s.onTag tag Tenancy.isBackoff) with
  | some i => s.enterClaiming i
  | none => s

/-- Words the transit store holds (R96). -/
def transitWords (l : List (List Word)) : Nat := (l.map List.length).sum

/-- A forwarded frame joins the tail of the transit store, or is dropped when it would take it above 512 words (R96). -/
def State.intoTransit (s : State) (ws : List Word) : State :=
  if transitWords s.line.transit + ws.length ≤ Config.transitCapacity then
    s.modifyLine ({ · with transit := s.line.transit ++ [ws] })
  else s

/-- A foreign frame that is no orphan by its hop count: its owner's effects, then forwarded (R83). A census that lists
this station with its own identity, or holds 64 entries, is stripped (R84). -/
def State.passFrame (s : State) (f : Frame) (ws : List Word) : State :=
  match f.body with
  | .claim tag mode standing held yield objector =>
    let r := s.claimPasses tag mode standing.toNat f.source { held := held, yield := yield, objector := objector }
    r.1.intoTransit (forwardWords ws (claimChange r.2.held r.2.yield r.2.objector))
  | .release tag => (s.releasePasses tag).intoTransit (forwardWords ws id)
  | .census members =>
    let s1 := if s.listsDuplicate members then s.enterHalted else s
    if s.listsSelf members || decide (Config.censusCapacity ≤ members.length) then s1
    else
      s1.intoTransit (forwardWords ws (censusChange (members.length + 1)
        { number := s.config.settings.stationNumber, identity := s.identity }))

/-- The low 16 bits of the unit identity (R119). -/
def State.sourceCheck (s : State) : Word := s.identity.extractLsb' 0 16

/-- The frame carries this station's number as source (R80, R81). -/
def State.ownNumber (s : State) (f : Frame) : Bool := f.source == s.config.settings.stationNumber

/-- An own frame is handed to the block that sent it (R80). -/
def State.ownReturn (s : State) (f : Frame) : State :=
  match f.body with
  | .claim tag _ _ held yield objector => s.claimReturn f.serial tag held yield objector
  | .release tag => s.releaseReturn f.serial tag
  | .census members => s.censusReturn f.serial members

/-- The frame gives the duplicate report that takes the station to HALTED (R81, R120). -/
def State.reportsDuplicate (s : State) (f : Frame) : Bool :=
  s.ownNumber f && (s.station.state == .joining || s.station.state == .up || s.station.state == .down)

/-- The order of R81 drawn for one frame: the Lease Table takes the change to HALTED before it judges the frame, or leaves it
for later. Which of the two is a free value (log entry 12). -/
def State.drawOrder (s : State) : State :=
  if Config.haltedFirst s.choices then { s with choices := s.choices + 1 }.takeChanges
  else { s with choices := s.choices + 1 }

/-- A foreign intact frame (R81 to R84): a duplicate number is reported, an orphan stripped, the rest passed on, judged before
or after the change to HALTED. -/
def State.foreignFrame (s : State) (f : Frame) (ws : List Word) : State :=
  let s1 := if s.ownNumber f then s.enterHalted else s
  if s.config.settings.ringLimit - 1 ≤ f.hop.toNat then s1
  else (if s.reportsDuplicate f then s1.drawOrder else s1).passFrame f ws

/-- The Frame Processor takes one arrival, in the steps of 4.2 (R79 to R84). -/
def State.takeArrival (s : State) (a : Arrival) : State :=
  match a.judge with
  | none => s.reportDamaged
  | some f =>
    let s1 := s.reportIntact
    if s.ownNumber f && f.check == s.sourceCheck then s1.ownReturn f else s1.foreignFrame f a.words

/-- The Frame Processor takes arrivals in JOINING, UP, DOWN and HALTED while the Line Interface is INSERTED (R79). -/
def State.takesArrivals (s : State) : Bool :=
  s.line.mode == .inserted && s.station.state != .offline

/-- The oldest completed frame is judged, the rest wait on (R79, log entry 8). -/
def State.judgeNext (s : State) (a : Arrival) (rest : List Arrival) : State :=
  let s' := s.modifyFrames ({ · with arrivals := rest })
  if s.takesArrivals then s'.takeArrival a else s'

/-- The frames given are judged one after the other (R104). -/
def State.judgeWaiting : List Arrival → State → State
  | [], s => s
  | a :: rest, s => State.judgeWaiting rest (s.judgeNext a rest)

/-! ### Origination (R27, R63, R85 to R90) -/

/-- The item is sendable in this station state (R88). -/
def SendItem.sendable : SendItem → StationState → Bool
  | _, .up => true
  | .census, .joining | .census, .down => true
  | .census, .offline | .census, .halted => false
  | .claim _, .offline | .claim _, .joining | .claim _, .down | .claim _, .halted => false
  | .release _, .offline | .release _, .joining | .release _, .down | .release _, .halted => false

/-- A frame of this station with the next serial, hop count 0 (R90). -/
def State.ownFrame (s : State) (body : FrameBody) : Frame :=
  { source := s.config.settings.stationNumber, check := s.sourceCheck, hop := 0, serial := s.frames.serial,
    body := body }

/-- The transmitter begins to send a frame: its START goes out in this word time (R97). -/
def State.beginSending (s : State) (ws : List Word) : State := s.modifyLine ({ · with transmitter := .sending ws 1 })

/-- A frame is originated: its words begin on ring-out and the serial counter advances (R85, R90). -/
def State.originate (s : State) (body : FrameBody) : State :=
  (s.beginSending (s.ownFrame body).encode).modifyFrames ({ · with serial := s.frames.serial + 1 })

/-- CLAIMING with frame phase QUEUED (R26). -/
def Tenancy.claimQueued (t : Tenancy) : Bool :=
  match t.state with
  | .claiming .queued _ => true
  | .claiming (.inFlight _ _) _ | .queuedLocal | .backoff _ | .held _ _ | .releasing _ | .closing => false

/-- The contents of the CLAIM frame of an entry's next attempt (R27). -/
def Tenancy.claimBody (t : Tenancy) : FrameBody :=
  .claim t.tag t.mode (BitVec.ofNat 4 (standingOf t.priority (t.attempts + 1))) false false none

/-- The entry of a taken claim item in flight: attempts made one higher, the serial recorded, the circuit timer started
(R27). -/
def Tenancy.claimSent (serial : Byte) (timeout : Nat) (t : Tenancy) : Tenancy :=
  { t with attempts := t.attempts + 1, state := .claiming (.inFlight serial timeout) t.lost }

/-- The entry of a taken release item in flight (R63). -/
def Tenancy.releaseSent (serial : Byte) (timeout : Nat) (t : Tenancy) : Tenancy :=
  { t with state := .releasing (.inFlight serial timeout) }

/-- The transmitter has a taken item originated (R89, R90). An item whose entry has no such frame to send sends nothing
(log entry 17). -/
def State.originateItem (s : State) : SendItem → State
  | .claim i =>
    match s.tenancy i with
    | none => s
    | some t =>
      if t.claimQueued then
        (s.originate t.claimBody).modifyTenancy i
          (Tenancy.claimSent s.frames.serial s.config.settings.circuitTimeout)
      else s
  | .release i =>
    match s.tenancy i with
    | none => s
    | some t =>
      if t.state = .releasing .queued then
        (s.originate (.release t.tag)).modifyTenancy i
          (Tenancy.releaseSent s.frames.serial s.config.settings.circuitTimeout)
      else s
  | .census =>
    (s.originate (.census [{ number := s.config.settings.stationNumber, identity := s.identity }])).modifyStation
      ({ · with census := .inFlight s.frames.serial s.time.micros s.config.settings.circuitTimeout })

/-- The transmitter's choice at a frame boundary: forward, originate, or fill (R97). -/
def State.boundary (s : State) : State :=
  match s.line.transit with
  | ws :: rest => (s.modifyLine ({ · with transit := rest })).beginSending ws
  | [] =>
    match s.frames.sendList.find? (·.sendable s.station.state) with
    | some item => (s.setSendList (s.frames.sendList.erase item)).originateItem item
    | none => s.modifyLine ({ · with transmitter := .idle 0 })

/-! ### The receiver and the detector (R93 to R95) -/

/-- A frame is completed and handed to the Frame Processor with its indications (R95). -/
def State.completeFrame (s : State) (store : List Word) (violation overlong cutShort : Bool) : State :=
  s.modifyFrames fun f =>
    { f with arrivals := f.arrivals ++
        [{ words := store, violation := violation, overlong := overlong, cutShort := cutShort }] }

/-- The receiver's condition replaced. -/
def State.setReceiver (s : State) (r : Receiver) : State := s.modifyLine ({ · with receiver := r })

/-- What the receiver does with a word or a violation (R94, R95). -/
def State.receive (s : State) (w : LineWord) : State :=
  match s.line.receiver with
  | .between =>
    match w with
    | .start => s.setReceiver (.inFrame [] false false)
    | .idle | .data _ | .fin | .violation => s
  | .inFrame store violation overlong =>
    match w with
    | .data x =>
      if store.length < Config.receiveCapacity then s.setReceiver (.inFrame (store ++ [x]) violation overlong)
      else s.setReceiver (.inFrame store violation true)
    | .violation => s.setReceiver (.inFrame store true overlong)
    | .fin => (s.completeFrame store violation overlong false).setReceiver .between
    | .start => (s.completeFrame store violation overlong true).setReceiver (.inFrame [] false false)
    | .idle => (s.completeFrame store violation overlong true).setReceiver .between

/-- The report *upstream present* at the Station Controller: in JOINING a waiting census is added (R108). -/
def State.reportPresent (s : State) : State :=
  if s.station.state = .joining ∧ s.station.awaitsUpstream = true ∧ s.station.census = .none then s.addCensus else s

/-- The detector sees a valid word (R93): a SILENT one becomes PRESENT and reports, a PRESENT one restarts its timer. -/
def State.detectWord (s : State) : State :=
  let s1 := s.modifyLine ({ · with detector := .present Config.silenceMicros })
  match s.line.detector with
  | .silent => s1.reportPresent
  | .present _ => s1

/-- A violation is no valid word (R91). -/
def wordIsValid : LineWord → Bool
  | .violation => false
  | .data _ | .idle | .start | .fin => true

/-- The detector becomes SILENT, a frame being received is cut short, and the silence is reported (R93, R95, R118). -/
def State.becomeSilent (s : State) : State :=
  let s1 :=
    match s.line.receiver with
    | .between => s
    | .inFrame store violation overlong => (s.completeFrame store violation overlong true).setReceiver .between
  (s1.modifyLine ({ · with detector := .silent })).enterDown .silence

/-! ### Commands and their results (R146 to R148) -/

/-- A result written into a channel's slot (R148). -/
def State.answer (s : State) (ch : Channel) (code echo : Byte) (status : Status) (values : ResultValues) : State :=
  s.modifyChannel ch ({ · with slot := some { code := code, echo := echo, status := status, values := values } })

/-- What a port does while RSTn is not low; while it is low the ports take no transaction (R178, log entry 14). -/
def State.atPort (s : State) (act : State → State) : State := if s.rstnLow then s else act s

/-- A command permitted on channel 0 only: answered NOT_PERMITTED on the others before any check of its own (R147,
R177). -/
def State.channel0Only (s : State) (ch : Channel) (code echo : Byte) (act : State → State) : State :=
  s.atPort fun s => if ch = 0 then act s else s.answer ch code echo .notPermitted .nothing

/-- A configuration command: WRONG_STATE unless the station is OFFLINE with leaving clear (R164). -/
def State.configCommand (s : State) (ch : Channel) (code echo : Byte) (act : State → State) : State :=
  s.channel0Only ch code echo fun s =>
    if s.station.state = .offline ∧ s.station.leaving = false then act s
    else s.answer ch code echo .wrongState .nothing

/-- A command that carries a handle, resolved before any other check (R154). -/
def State.handleCommand (s : State) (ch : Channel) (code echo index generation : Byte)
    (act : EntryIx → Tenancy → State → State) : State :=
  s.atPort fun s =>
    match s.resolve ch index generation with
    | .badHandle => s.answer ch code echo .badHandle .nothing
    | .gone => s.answer ch code echo .gone .nothing
    | .found i t => act i t s

end Sys2Proof.Machine
end

