-- ==== Sys2Proof/Machine/ChannelCommands.lean ====
section
/-! DEFINITION. STATUS, MEMBERS, the channel resets and unknown command codes (R147, R158 to R161). -/

namespace Sys2Proof.Machine

/-- What STATUS reports to a channel (R158). -/
def State.statusValues (s : State) (ch : Channel) : StatusValues :=
  { station := s.station.state, number := s.config.settings.stationNumber, identity := s.identity,
    faultScore := s.station.faultScore, faultWarning := s.station.faultWarning, members := s.station.view.length,
    lastCircuit := s.station.lastCircuit, freeEntries := s.freeCount, nonFree := s.nonFree ch,
    quota := (s.limits ch).quota, queueCount := (s.channel ch).queue.length, timestamp := s.station.timestamp }

/-- STATUS (R158). -/
def execStatus (ch : Channel) (echo : Byte) (s : State) : Host.Outcome State Fault Refusal :=
  .next <| s.atPort fun s => s.answer ch 0x14 echo .ok (.status (s.statusValues ch))

/-- MEMBERS (R159): one entry of the membership view by index. -/
def execMembers (ch : Channel) (echo index : Byte) (s : State) : Host.Outcome State Fault Refusal :=
  .next <| s.atPort fun s =>
    if 63 < index.toNat then s.answer ch 0x15 echo .badArgument .nothing
    else s.answer ch 0x15 echo .ok
      (.member index.toNat s.station.view.length (s.station.view[index.toNat]?))

/-- The values of a channel reset: target, issuing channel, the target's entries that the reset made FREE and those left
(R160). -/
def resetValues (before after : State) (target issuing : Channel) : ResultValues :=
  .reset target issuing (before.nonFree target - after.nonFree target) (after.nonFree target)

/-- RESET CHANNEL (R160): the result is written after the reset has acted. -/
def execResetChannel (ch : Channel) (echo : Byte) (s : State) : Host.Outcome State Fault Refusal :=
  .next <| s.atPort fun s =>
    let s' := s.channelReset ch
    s'.answer ch 0x16 echo .ok (resetValues s s' ch ch)

/-- RESET CHANNEL n (R161): channel 0's slot and channel n's slot are written with the same result. -/
def execResetChannelN (ch : Channel) (echo target : Byte) (s : State) : Host.Outcome State Fault Refusal :=
  .next <| s.channel0Only ch 0x26 echo fun s =>
    match channelOfByte target with
    | none => s.answer ch 0x26 echo .badArgument .nothing
    | some n =>
      let s' := s.channelReset n
      let values := resetValues s s' n ch
      (s'.answer ch 0x26 echo .ok values).answer n 0x26 echo .ok values

/-- A taken record whose command code is not known (R147). -/
def execUnknownCommand (ch : Channel) (code echo : Byte) (s : State) : Host.Outcome State Fault Refusal :=
  .next <| s.atPort fun s => s.answer ch code echo .unknownCommand .nothing

end Sys2Proof.Machine
end

