-- ==== Sys2Proof/Machine/ConfigCommands.lean ====
section
/-! DEFINITION. The four configuration commands of channel 0 (R164, R165, R167, R169, R173, R174). A command that fails a
check writes nothing; one that passes writes every item it carries. -/

namespace Sys2Proof.Machine

/-- CONFIGURE STATION (R167). -/
def execConfigureStation (ch : Channel) (echo number ringLimit circuitTimeout retryInterval censusSteps margin : Byte)
    (s : State) : Host.Outcome State Fault Refusal :=
  .next <| s.configCommand ch 0x20 echo fun s =>
    match settingsOfBytes number ringLimit circuitTimeout retryInterval censusSteps margin with
    | none => s.answer ch 0x20 echo .badArgument .nothing
    | some x => (s.modifyConfig ({ · with settings := x })).answer ch 0x20 echo .ok (.settings x)

/-- SET CHANNEL LIMITS (R169): the sum of the quotas is START's to check. -/
def execSetChannelLimits (ch : Channel) (echo target quota ceiling : Byte) (maxTerm : Word) (s : State) :
    Host.Outcome State Fault Refusal :=
  .next <| s.configCommand ch 0x21 echo fun s =>
    match channelOfByte target, limitsOfBytes quota ceiling maxTerm with
    | some c, some l =>
      (s.modifyConfig fun x => { x with limits := x.limits.set c.val l c.isLt }).answer ch 0x21 echo .ok (.limits c l)
    | _, _ => s.answer ch 0x21 echo .badArgument .nothing

/-- SET WINDOW (R173): all five items of one window. -/
def execSetWindow (ch : Channel) (echo target window : Byte) (value mask : Tag) (enabled shared exclusive : Bool)
    (s : State) : Host.Outcome State Fault Refusal :=
  .next <| s.configCommand ch 0x22 echo fun s =>
    match channelOfByte target, windowOfByte window with
    | some c, some k =>
      let w : Window :=
        { enabled := enabled, value := value, mask := mask, sharedRight := shared, exclusiveRight := exclusive }
      (s.modifyConfig fun x =>
        { x with windows := x.windows.set c.val ((x.windows.get c).set k.val w k.isLt) c.isLt }).answer ch 0x22 echo .ok
        (.window c k w)
    | _, _ => s.answer ch 0x22 echo .badArgument .nothing

/-- SET ROUTE (R174). -/
def execSetRoute (ch : Channel) (echo routingClass target : Byte) (s : State) : Host.Outcome State Fault Refusal :=
  .next <| s.configCommand ch 0x23 echo fun s =>
    match routingClassOfByte routingClass, channelOfByte target with
    | some r, some c =>
      (s.modifyConfig fun x => { x with routing := x.routing.set r c }).answer ch 0x23 echo .ok (.route r c)
    | _, _ => s.answer ch 0x23 echo .badArgument .nothing

end Sys2Proof.Machine
end

