-- ==== Sys2Proof/Machine/EntryTimers.lean ====
section
/-! DEFINITION. The timers of the lease entries and the Lease Table's taking of a station change (R40, R42, R43, R47, R52
to R54, R65, R66). An expiry whose timer does not run does not happen (R11, log entry 5). -/

namespace Sys2Proof.Machine

/-- The expiry warning is due at this remaining term (R53). -/
def warningDue (margin remaining : Nat) (t : Tenancy) : Bool :=
  decide (margin ≠ 0) && decide (remaining ≤ margin) && decide (0 < remaining) && !t.expiringNotified

/-- A tick at the term timer of an entry (R52, R53): remaining term one lower, and EXPIRING once. At 0 the expiry is due
and the timer has run out (log entry 6). -/
def execTermTick (i : EntryIx) (s : State) : Host.Outcome State Fault Refusal :=
  .next <|
    match s.tenancy i with
    | none => s
    | some t =>
      match t.state with
      | .held (k + 1) demand =>
        if warningDue s.config.settings.warningMargin k t then
          (s.modifyTenancy i ({ · with state := .held k demand, expiringNotified := true })).raiseLease i (.expiring k) {}
        else s.modifyTenancy i ({ · with state := .held k demand })
      | .held 0 _ | .queuedLocal | .claiming _ _ | .backoff _ | .releasing _ | .closing => s

/-- The expiry of an entry's term (R54): EXPIRED, detached, out of HELD by the release procedure. -/
def execTermExpiry (i : EntryIx) (s : State) : Host.Outcome State Fault Refusal :=
  .next <|
    match s.tenancy i with
    | none => s
    | some t =>
      match t.state with
      | .held 0 _ => (s.raiseLease i .expired {}).releaseHeld i t.tag
      | .held (_ + 1) _ | .queuedLocal | .claiming _ _ | .backoff _ | .releasing _ | .closing => s

/-- The end of a backoff: the entry re-enters CLAIMING (R40). -/
def execBackoffExpiry (i : EntryIx) (s : State) : Host.Outcome State Fault Refusal :=
  .next <|
    match s.tenancy i with
    | none => s
    | some t =>
      match t.state with
      | .backoff _ => s.enterClaiming i
      | .queuedLocal | .claiming _ _ | .held _ _ | .releasing _ | .closing => s

/-- The circuit timer of a CLAIMING entry expires: the attempt fails with TIMEOUT (R42), a detached entry ends (R43). -/
def execClaimCircuitTimeout (i : EntryIx) (s : State) : Host.Outcome State Fault Refusal :=
  .next <|
    match s.tenancy i with
    | none => s
    | some t =>
      match t.state with
      | .claiming (.inFlight _ _) _ =>
        if t.attached then s.failAttempt i .timeout none else s.endAndExamine i t.tag
      | .claiming .queued _ | .queuedLocal | .backoff _ | .held _ _ | .releasing _ | .closing => s

/-- The circuit timer of a RELEASING entry expires: its tenancy ends as on a matched return (R65). -/
def execReleaseCircuitTimeout (i : EntryIx) (s : State) : Host.Outcome State Fault Refusal :=
  .next <|
    match s.tenancy i with
    | none => s
    | some t =>
      match t.state with
      | .releasing (.inFlight _ _) => s.endAndExamine i t.tag
      | .releasing .queued | .queuedLocal | .claiming _ _ | .backoff _ | .held _ _ | .closing => s

/-- The Lease Table takes a change of station state (R47, R66, log entry 11). -/
def execLeaseTableTakesStateChange (s : State) : Host.Outcome State Fault Refusal := .next s.takeChange

end Sys2Proof.Machine
end

