-- ==== Sys2Proof/Machine/LeaseCommands.lean ====
section
/-! DEFINITION. CLAIM, RELEASE, RENEW and QUERY (R4, R18 to R20, R55, R67, R151 to R157). -/

namespace Sys2Proof.Machine

/-- The checks of CLAIM in their order; the first that fails decides (R151, R152, R171). -/
def State.checkClaim (s : State) (ch : Channel) (tag : Tag) (mode : Byte) (priority term limit : Nat) :
    Except Status Mode :=
  if s.station.state ≠ .up ∨ s.station.leaving = true then .error .notUp
  else
    match modeOfByte mode with
    | none => .error .badArgument
    | some m =>
      if claimNumbersInRange (s.limits ch) priority term limit = false then .error .badArgument
      else if (s.limits ch).ceiling < priority then .error .notPermitted
      else if s.windowsPermit ch tag m = false then .error .notPermitted
      else if s.hasAttached ch tag then .error .alreadyClaimed
      else if (s.limits ch).quota ≤ s.nonFree ch then .error .quotaFull
      else .ok m

/-- A new tenancy's fields (R4); its state is set by the acceptance case that follows in the same event. -/
def newTenancy (ch : Channel) (tag : Tag) (m : Mode) (priority term limit : Nat) : Tenancy :=
  { owner := ch, attached := true, tag := tag, mode := m, priority := priority, attemptLimit := limit, attempts := 0,
    term := term, state := .queuedLocal, lastRefusal := none, contendedNotified := false, expiringNotified := false,
    deferred := none }

/-- The opening of a tenancy in a FREE entry (R4): the generation is incremented, 15 wrapping to 0. -/
def State.openTenancy (s : State) (i : EntryIx) (t : Tenancy) : State :=
  s.setEntry i { generation := (s.entry i).generation + 1, tenancy := some t }

/-- Acceptance of a new claim, in the entry taken for it (R18 to R20): the cases look at the other entries on the tag. -/
def State.accept (s : State) (i : EntryIx) (t : Tenancy) : State × Status :=
  let opened := s.openTenancy i t
  let waits := (opened.setWaiting (s.lease.waiting ++ [i]), Status.queued)
  if (s.waitList t.tag).isEmpty then
    match s.acceptance t.tag t.mode with
    | .blocked | .wait => waits
    | .join => (opened.grant i false, .grantedNow)
    | .claim => (opened.enterClaiming i, .accepted)
  else waits

/-- The values of an accepted CLAIM: the handle, and for GRANTED_NOW the term (R151). -/
def claimValues (i : EntryIx) (generation : BitVec 4) (term : Nat) : Status → ResultValues
  | .grantedNow => .granted i generation term
  | _ => .handle i generation

/-- CLAIM (R151). A CLAIM that passes its checks always finds a FREE entry (R13); a state in which none is left, which no
run has, answers QUOTA_FULL (log entry 17). -/
def execClaim (ch : Channel) (echo : Byte) (tag : Tag) (mode priority : Byte) (term : Word) (limit : Byte) (s : State) :
    Host.Outcome State Fault Refusal :=
  .next <| s.atPort fun s =>
    match s.checkClaim ch tag mode priority.toNat term.toNat limit.toNat with
    | .error status => s.answer ch 0x10 echo status .nothing
    | .ok m =>
      match s.lowestFree with
      | none => s.answer ch 0x10 echo .quotaFull .nothing
      | some i =>
        let r := s.accept i (newTenancy ch tag m priority.toNat term.toNat limit.toNat)
        r.1.answer ch 0x10 echo r.2 (claimValues i ((s.entry i).generation + 1) term.toNat r.2)

/-- RELEASE at the Lease Table, once the deferred notice has been discarded: the effect by the entry's state (R67). A
waiting entry's list is examined when it left from the head (R17). -/
def State.releaseEntry (s : State) (i : EntryIx) (t : Tenancy) : State :=
  match t.state with
  | .queuedLocal =>
    let s' := s.endTenancy i
    if (s.waitList t.tag).head? = some i then s'.examine t.tag else s'
  | .claiming .queued _ | .backoff _ | .closing => s.endAndExamine i t.tag
  | .claiming (.inFlight _ _) _ => s.detach i
  | .held _ _ => s.releaseHeld i t.tag
  | .releasing _ => s

/-- RELEASE (R67, R155). -/
def execRelease (ch : Channel) (echo index generation : Byte) (s : State) : Host.Outcome State Fault Refusal :=
  .next <| s.handleCommand ch 0x11 echo index generation fun i t s =>
    ((s.discardDeferred i).releaseEntry i t).answer ch 0x11 echo .ok (.state t.state.name)

/-- The term RENEW leaves: the argument, or the present term for 0 (R55). -/
def renewedTerm (t : Tenancy) (term : Nat) : Nat := if term = 0 then t.term else term

/-- RENEW of a HELD entry (R55): the term replaced, remaining term set from it, expiring notified clear. Remote demand
and contended notified stay. -/
def Tenancy.renew (term : Nat) (t : Tenancy) : Tenancy :=
  match t.state with
  | .held _ demand =>
    { t with term := renewedTerm t term, state := .held (renewedTerm t term) demand, expiringNotified := false }
  | .queuedLocal | .claiming _ _ | .backoff _ | .releasing _ | .closing => t

/-- RENEW (R55, R156): handle, then term, then state. -/
def execRenew (ch : Channel) (echo index generation : Byte) (term : Word) (s : State) :
    Host.Outcome State Fault Refusal :=
  .next <| s.handleCommand ch 0x12 echo index generation fun i t s =>
    if renewTermInRange (s.limits ch) term.toNat = false then s.answer ch 0x12 echo .badArgument .nothing
    else if t.isHeld then
      (s.modifyTenancy i (Tenancy.renew term.toNat)).answer ch 0x12 echo .ok
        (.renewed (renewedTerm t term.toNat) (renewedTerm t term.toNat))
    else s.answer ch 0x12 echo .wrongState (.state t.state.name)

/-- Remaining term, present in HELD (R157). -/
def Tenancy.remaining (t : Tenancy) : Option Nat :=
  match t.state with
  | .held remaining _ => some remaining
  | .queuedLocal | .claiming _ _ | .backoff _ | .releasing _ | .closing => none

/-- Remote demand, present in HELD (R157). -/
def Tenancy.remoteDemand (t : Tenancy) : Option Bool :=
  match t.state with
  | .held _ demand => some demand
  | .queuedLocal | .claiming _ _ | .backoff _ | .releasing _ | .closing => none

/-- What QUERY reports of a tenancy (R157). -/
def Tenancy.queryValues (t : Tenancy) : QueryValues :=
  { state := t.state.name, mode := t.mode, tag := t.tag, attempts := t.attempts, remaining := t.remaining,
    remoteDemand := t.remoteDemand, lastRefusal := t.lastRefusal }

/-- QUERY (R157). -/
def execQuery (ch : Channel) (echo index generation : Byte) (s : State) : Host.Outcome State Fault Refusal :=
  .next <| s.handleCommand ch 0x13 echo index generation fun _ t s =>
    s.answer ch 0x13 echo .ok (.query t.queryValues)

end Sys2Proof.Machine
end

