-- ==== Sys2Proof/Machine/LineEvents.lean ====
section
/-! DEFINITION. Events of the Line Interface and of the Frame Processor (R79, R91 to R102). In a mode that does not have
an event, the event finds nothing to act on (log entry 5). -/

namespace Sys2Proof.Machine

/-- A valid word while the detector is SILENT (R93). -/
def execUpstreamPresent (s : State) : Host.Outcome State Fault Refusal :=
  .next (if s.line.mode = .inserted ∧ s.upstreamIsPresent = false then s.detectWord else s)

/-- Expiry of the silence timer (R93, R95, R118). -/
def execUpstreamSilent (s : State) : Host.Outcome State Fault Refusal :=
  .next (if s.line.mode = .inserted ∧ s.upstreamIsPresent = true then s.becomeSilent else s)

/-- The oldest frame handed on reaches the Frame Processor (R79, log entry 8). -/
def execFrameArrival (s : State) : Host.Outcome State Fault Refusal :=
  .next <|
    match s.frames.arrivals with
    | [] => s
    | a :: rest => s.judgeNext a rest

/-- A frame boundary on ring-out (R97). That the boundary has come means that the gap has been sent (log entry 7). -/
def execFrameBoundary (s : State) : Host.Outcome State Fault Refusal :=
  .next <|
    match s.line.mode, s.line.transmitter with
    | .inserted, .idle _ | .inserted, .ended => s.boundary
    | .inserted, .sending _ _ | .bypassed, _ | .settling _, _ | .draining, _ => s

/-- The END of the frame on ring-out is sent, and the gap is owed (R91, R98). Where a LEAVE has been taken since the END fell
due, the Line Interface is DRAINING and the bypass closes with it (R102, R104). -/
def execFrameEndSent (s : State) : Host.Outcome State Fault Refusal :=
  .next <|
    match s.line.mode, s.line.transmitter with
    | .inserted, .sending _ _ => s.modifyLine ({ · with transmitter := .ended })
    | .draining, _ => (s.modifyLine ({ · with transmitter := .ended })).bypassClosed
    | .inserted, .idle _ | .inserted, .ended | .bypassed, _ | .settling _, _ => s

/-- In DRAINING the END of the frame on ring-out is sent and the bypass closes in its word time (R102, R122). The gap that the
transmitter then counts is not owed: BYPASSED has no frame boundary. -/
def execDrainingEndSent (s : State) : Host.Outcome State Fault Refusal :=
  .next (if s.line.mode = .draining then (s.modifyLine ({ · with transmitter := .ended })).bypassClosed else s)

/-- Expiry of the relay settle timer: INSERTED, with the join hold-off started (R97, R101, R108). -/
def execRelaySettleExpiry (s : State) : Host.Outcome State Fault Refusal :=
  .next <|
    match s.line.mode with
    | .settling _ =>
      (s.modifyLine
        ({ · with mode := .inserted, receiver := .between, detector := .silent,
                  transmitter := .idle Config.gapWords })).modifyStation
        ({ · with holdOff := some (2 * s.config.settings.circuitTimeout) })
    | .bypassed | .inserted | .draining => s

/-- One word or violation received on ring-in: the detector sees it and the receiver treats it (R93, R94, log entry 10).
In the modes but INSERTED the receiver assembles no frames and the detector is held (R92). -/
def execLineWordReceived (w : LineWord) (s : State) : Host.Outcome State Fault Refusal :=
  .next (if s.line.mode = .inserted then (if wordIsValid w then s.detectWord else s).receive w else s)

end Sys2Proof.Machine
end

