-- ==== Sys2Proof/Machine/PortTransactions.lean ====
section
/-! DEFINITION. The port transactions that carry no whole command record (R138, R139, R146, R178 to R181). -/

namespace Sys2Proof.Machine

/-- A WRITE COMMAND that ended short is not taken and sets the port-error flag (R146, R179). -/
def execShortWriteCommand (ch : Channel) (_received : Nat) (s : State) : Host.Outcome State Fault Refusal :=
  .next <| s.atPort fun s => s.modifyChannel ch ({ · with portError := true })

/-- READ EVENT at its opcode decode (R138, R139, R180). -/
def execReadEvent (ch : Channel) (s : State) : Host.Outcome State Fault Refusal :=
  .next <| s.atPort fun s => s.readEvent ch

/-- READ ATTENTION at its opcode decode: the copy first, then the flag cleared (R180). -/
def execReadAttention (ch : Channel) (s : State) : Host.Outcome State Fault Refusal :=
  .next <| s.atPort fun s => s.modifyChannel ch fun c =>
    { c with readCopy := .attention c.queue.length (!c.deferral.isEmpty) c.portError, portError := false }

/-- An unknown opcode sets the port-error flag, and the port shifts out 0x00 (R181). -/
def execUnknownOpcode (ch : Channel) (_opcode : Byte) (s : State) : Host.Outcome State Fault Refusal :=
  .next <| s.atPort fun s => s.modifyChannel ch ({ · with portError := true, readCopy := .zeros })

end Sys2Proof.Machine
end

