-- ==== Sys2Proof/Machine/ResetPins.lean ====
section
/-! DEFINITION. The RSTn pin (R3, R103, R105, R144, R145, R165, R178, R182). -/

namespace Sys2Proof.Machine

/-- RSTn falls: a transaction in progress is abandoned and its select is ignored until it rises (R178). -/
def Port.abandon : Port → Port
  | .idle => .idle
  | .active _ _ | .ignored => .ignored

/-- RSTn low, or power-up: every block at its device-reset values, no matter what it held. The unit identity is fixed in
the part (R119), and no rule resets the timebase (log entry 3). The select pins are the hosts' (R178). -/
def execDeviceReset (s : State) : Host.Outcome State Fault Refusal :=
  .next { State.reset with
    identity := s.identity, time := s.time, rstnLow := true, ports := s.ports.map Port.abandon, choices := s.choices,
    pending := s.pending }

/-- RSTn rising: ring-out sends IDLE, and the ports take transactions from the next fall of select (R103, R178). A select that
fell while RSTn was low stays ignored until it rises. -/
def execResetRelease (s : State) : Host.Outcome State Fault Refusal := .next { s with rstnLow := false }

end Sys2Proof.Machine
end

