-- ==== Sys2Proof/Machine/StationCommands.lean ====
section
/-! DEFINITION. START and LEAVE (R107, R121, R163, R175). -/

namespace Sys2Proof.Machine

/-- START (R107, R163, R175): the state check comes before the configuration check. -/
def execStart (ch : Channel) (echo : Byte) (s : State) : Host.Outcome State Fault Refusal :=
  .next <| s.configCommand ch 0x24 echo fun s =>
    if s.config.valid then s.takeStart.answer ch 0x24 echo .ok .nothing
    else s.answer ch 0x24 echo .badArgument .nothing

/-- LEAVE (R121, R163): its result carries the number of entries made FREE, all channels together. The arrivals completed
before it are judged first (R104). -/
def execLeave (ch : Channel) (echo : Byte) (s : State) : Host.Outcome State Fault Refusal :=
  .next <| s.channel0Only ch 0x25 echo fun s =>
    if s.station.state = .offline ∨ s.station.leaving = true then s.answer ch 0x25 echo .wrongState .nothing
    else
      let s1 := State.judgeWaiting s.frames.arrivals s
      s1.takeLeave.answer ch 0x25 echo .ok (.left (64 - s1.freeCount))

end Sys2Proof.Machine
end

