-- ==== Sys2Proof/Machine/StationTimers.lean ====
section
/-! DEFINITION. The timers of the Station Controller and the station timestamp (R108, R110, R113, R124). An expiry whose
timer does not run does not happen (log entry 5). -/

namespace Sys2Proof.Machine

/-- Expiry of the join hold-off (R108). -/
def execJoinHoldOffExpiry (s : State) : Host.Outcome State Fault Refusal :=
  .next <|
    match s.station.holdOff with
    | none => s
    | some _ =>
      let s1 := s.modifyStation ({ · with holdOff := none })
      if s.upstreamIsPresent then s1.addCensus else s1.modifyStation ({ · with awaitsUpstream := true })

/-- The census interval timer after its expiry: it runs on in UP and DOWN and is not restarted in JOINING (R110). -/
def State.nextInterval (s : State) : Option Nat :=
  match s.station.state with
  | .up | .down => some s.config.settings.censusInterval
  | .offline | .joining | .halted => none

/-- Expiry of the census interval timer, by station state (R110). -/
def execCensusIntervalExpiry (s : State) : Host.Outcome State Fault Refusal :=
  .next <|
    match s.station.interval with
    | none => s
    | some _ =>
      let s1 := s.modifyStation ({ · with interval := s.nextInterval })
      match s.station.state with
      | .up => s1.addCensus
      | .down =>
        if s.upstreamIsPresent ∧ s.station.faultScore ≤ Config.trustScore then s1.addCensus else s1
      | .joining =>
        if s.upstreamIsPresent then s1.addCensus
        else if s.station.census = .none then s1.modifyStation ({ · with awaitsUpstream := true })
        else s1
      | .offline | .halted => s1

/-- Expiry of the census circuit timer: a census loss, by station state (R113). -/
def execCensusLoss (s : State) : Host.Outcome State Fault Refusal :=
  .next <|
    match s.station.census with
    | .none | .queued => s
    | .inFlight _ _ _ =>
      let s1 := s.modifyStation ({ · with census := .none })
      match s.station.state with
      | .joining => s1.modifyStation ({ · with interval := some s.config.settings.censusInterval })
      | .up =>
        if s.station.censusLosses = 0 then (s1.modifyStation ({ · with censusLosses := 1 })).addCensus
        else s1.enterDown .censusLost
      | .offline | .down | .halted => s1

/-- A tick at the station timestamp, which counts in every state but OFFLINE and wraps (R124). -/
def execStationTimestampTick (s : State) : Host.Outcome State Fault Refusal :=
  .next (if s.station.state = .offline then s else s.modifyStation fun r => { r with timestamp := r.timestamp + 1 })

end Sys2Proof.Machine
end

