-- ==== Sys2Proof/Machine/Dispatch.lean ====
section
/-! DEFINITION. One arm per command: its meaning, on everything but the queue. -/

namespace Sys2Proof.Machine

def exec (i : Instr) (s : State) : Host.Outcome State Fault Refusal :=
  match i with
  | .claim ch echo tag mode priority term limit => Sys2Proof.Machine.execClaim ch echo tag mode priority term limit s
  | .release ch echo index generation => Sys2Proof.Machine.execRelease ch echo index generation s
  | .renew ch echo index generation term => Sys2Proof.Machine.execRenew ch echo index generation term s
  | .query ch echo index generation => Sys2Proof.Machine.execQuery ch echo index generation s
  | .status ch echo => Sys2Proof.Machine.execStatus ch echo s
  | .members ch echo index => Sys2Proof.Machine.execMembers ch echo index s
  | .resetChannel ch echo => Sys2Proof.Machine.execResetChannel ch echo s
  | .resetChannelN ch echo target => Sys2Proof.Machine.execResetChannelN ch echo target s
  | .start ch echo => Sys2Proof.Machine.execStart ch echo s
  | .leave ch echo => Sys2Proof.Machine.execLeave ch echo s
  | .configureStation ch echo number ringLimit circuitTimeout retryInterval censusSteps margin => Sys2Proof.Machine.execConfigureStation ch echo number ringLimit circuitTimeout retryInterval censusSteps margin s
  | .setChannelLimits ch echo target quota ceiling maxTerm => Sys2Proof.Machine.execSetChannelLimits ch echo target quota ceiling maxTerm s
  | .setWindow ch echo target window value mask enabled shared exclusive => Sys2Proof.Machine.execSetWindow ch echo target window value mask enabled shared exclusive s
  | .setRoute ch echo routingClass target => Sys2Proof.Machine.execSetRoute ch echo routingClass target s
  | .unknownCommand ch code echo => Sys2Proof.Machine.execUnknownCommand ch code echo s
  | .shortWriteCommand ch received => Sys2Proof.Machine.execShortWriteCommand ch received s
  | .readEvent ch => Sys2Proof.Machine.execReadEvent ch s
  | .readAttention ch => Sys2Proof.Machine.execReadAttention ch s
  | .unknownOpcode ch opcode => Sys2Proof.Machine.execUnknownOpcode ch opcode s
  | .deviceReset => Sys2Proof.Machine.execDeviceReset s
  | .upstreamPresent => Sys2Proof.Machine.execUpstreamPresent s
  | .upstreamSilent => Sys2Proof.Machine.execUpstreamSilent s
  | .frameArrival => Sys2Proof.Machine.execFrameArrival s
  | .frameBoundary => Sys2Proof.Machine.execFrameBoundary s
  | .drainingEndSent => Sys2Proof.Machine.execDrainingEndSent s
  | .relaySettleExpiry => Sys2Proof.Machine.execRelaySettleExpiry s
  | .joinHoldOffExpiry => Sys2Proof.Machine.execJoinHoldOffExpiry s
  | .censusIntervalExpiry => Sys2Proof.Machine.execCensusIntervalExpiry s
  | .censusLoss => Sys2Proof.Machine.execCensusLoss s
  | .termTick entry => Sys2Proof.Machine.execTermTick entry s
  | .termExpiry entry => Sys2Proof.Machine.execTermExpiry entry s
  | .backoffExpiry entry => Sys2Proof.Machine.execBackoffExpiry entry s
  | .claimCircuitTimeout entry => Sys2Proof.Machine.execClaimCircuitTimeout entry s
  | .releaseCircuitTimeout entry => Sys2Proof.Machine.execReleaseCircuitTimeout entry s
  | .leaseTableTakesStateChange => Sys2Proof.Machine.execLeaseTableTakesStateChange s
  | .lineWordReceived w => Sys2Proof.Machine.execLineWordReceived w s
  | .frameEndSent => Sys2Proof.Machine.execFrameEndSent s
  | .stationTimestampTick => Sys2Proof.Machine.execStationTimestampTick s
  | .resetRelease => Sys2Proof.Machine.execResetRelease s

end Sys2Proof.Machine
end

