-- ==== Sys2Proof/Machine/Timebase.lean ====
section
/-! DEFINITION. What the block does by itself while no command waits (DESIGN CHOICE, log entry 4): an event that is due is
put into the queue, and when none is due the 25 MHz reference clock advances by one period. A word time is 10 periods
(R91), a 1 us tick 25 and a 1 ms tick 25000 (00 section 3). Timers count their ticks down; the events they bring are the
table's own rows. -/

namespace Sys2Proof.Machine

/-! ### Timers counting (R11, R93, R100, R105) -/

/-- The circuit timer of a frame in flight one tick lower. -/
def FramePhase.tick : FramePhase → FramePhase
  | .queued => .queued
  | .inFlight serial circuit => .inFlight serial (circuit - 1)

/-- The backoff or circuit timer of an entry one tick lower. The term timer ticks by its own event (R52). -/
def EntryState.tick : EntryState → EntryState
  | .claiming phase lost => .claiming phase.tick lost
  | .backoff timer => .backoff (timer - 1)
  | .releasing phase => .releasing phase.tick
  | .queuedLocal => .queuedLocal
  | .held remaining demand => .held remaining demand
  | .closing => .closing

/-- The entry's timer one tick lower. -/
def Entry.tick (e : Entry) : Entry := { e with tenancy := e.tenancy.map fun t => { t with state := t.state.tick } }

/-- The census circuit timer one tick lower. -/
def Census.tick : Census → Census
  | .inFlight serial origin circuit => .inFlight serial origin (circuit - 1)
  | .none => .none
  | .queued => .queued

/-- The timers of the Station Controller one tick lower. -/
def StationRecord.tick (r : StationRecord) : StationRecord :=
  { r with census := r.census.tick, holdOff := r.holdOff.map (· - 1), interval := r.interval.map (· - 1) }

/-- The timers of the Line Interface one 1 us tick lower. -/
def LineInterface.tick (l : LineInterface) : LineInterface :=
  { l with
    mode := match l.mode with
      | .settling timer => .settling (timer - 1)
      | .bypassed => .bypassed
      | .inserted => .inserted
      | .draining => .draining
    detector := match l.detector with
      | .present timer => .present (timer - 1)
      | .silent => .silent }

/-! ### Events that are due -/

/-- The expiry that is due at an entry (R11). -/
def dueOfEntry (i : EntryIx) (t : Tenancy) : Option Instr :=
  match t.state with
  | .held 0 _ => some (.termExpiry i)
  | .backoff 0 => some (.backoffExpiry i)
  | .claiming (.inFlight _ 0) _ => some (.claimCircuitTimeout i)
  | .releasing (.inFlight _ 0) => some (.releaseCircuitTimeout i)
  | _ => none

/-- The first event that is due inside the block: a frame to judge, a change of station state to take, an expiry of an
entry, of the Station Controller, of the Line Interface. -/
def State.due (s : State) : Option Instr :=
  if !s.frames.arrivals.isEmpty then some .frameArrival
  else if !s.lease.changes.isEmpty then some .leaseTableTakesStateChange
  else
    match allIx.findSome? (fun i => (s.tenancy i).bind (dueOfEntry i)) with
    | some c => some c
    | none =>
      match s.station.holdOff, s.station.interval, s.station.census, s.line.mode, s.line.detector with
      | some 0, _, _, _, _ => some .joinHoldOffExpiry
      | _, some 0, _, _, _ => some .censusIntervalExpiry
      | _, _, .inFlight _ _ 0, _, _ => some .censusLoss
      | _, _, _, .settling 0, _ => some .relaySettleExpiry
      | _, _, _, _, .present 0 => some .upstreamSilent
      | _, _, _, _, _ => none

/-! ### One period of the reference clock -/

/-- One word time of the transmitter (R91, R97, R98): the next word of the frame, with the event of its END; an IDLE word
that is owed; or a frame boundary. While RSTn is low ring-out sends no words (R103). -/
def State.wordTime (s : State) : State :=
  if s.rstnLow then s
  else
    match s.line.transmitter with
    | .sending ws sent =>
      if sent ≤ ws.length then s.modifyLine ({ · with transmitter := .sending ws (sent + 1) })
      else { s with pending := s.pending ++ [if s.line.mode = .draining then .drainingEndSent else .frameEndSent] }
    | .ended => s.modifyLine ({ · with transmitter := .idle (Config.gapWords - 1) })
    | .idle (owed + 1) => s.modifyLine ({ · with transmitter := .idle owed })
    | .idle 0 =>
      if s.line.mode = .inserted then { s with pending := s.pending ++ [.frameBoundary] } else s

/-- One tick of the 1 us timebase. -/
def State.microTick (s : State) : State :=
  { s with time := { s.time with micros := s.time.micros + 1 }, line := s.line.tick }

/-- The term ticks of the HELD entries (R52). -/
def State.termTicks (s : State) : List Instr :=
  (allIx.filter (s.entryMeets Tenancy.isHeld)).map Instr.termTick

/-- One tick of the 1 ms timebase: timers count, and the ticks of the station timestamp and of the terms are put into the
queue. -/
def State.milliTick (s : State) : State :=
  { s with
    lease := { s.lease with entries := s.lease.entries.map Entry.tick }
    station := s.station.tick
    pending := s.pending ++ (.stationTimestampTick :: s.termTicks) }

/-- One period of the reference clock. -/
def State.clockPeriod (s : State) : State :=
  let p := (s.time.phase + 1) % Config.clocksPerMilli
  let s1 := { s with time := { s.time with phase := p } }
  let s2 := if p % Config.clocksPerWord = 0 then s1.wordTime else s1
  let s3 := if p % Config.clocksPerMicro = 0 then s2.microTick else s2
  if p = 0 then s3.milliTick else s3

/-- What the block does while no command waits. -/
def State.idle (s : State) : State :=
  match s.due with
  | some c => { s with pending := s.pending ++ [c] }
  | none => s.clockPeriod

end Sys2Proof.Machine
end

