-- ==== Sys2Proof/Machine/Formats.lean ====
section
/-! DEFINITION. The bytes a host reads: code values (R185), the result slot (R187), the event records (R188) and the two
bytes of READ ATTENTION (R180). READ RESULT has no row in the opcode table: it is an act of the port alone
(Machine/Ports.lean, log entry 15), and shifts out the slot as it stands at opcode decode. -/

namespace Sys2Proof.Machine

/-! ### Code values (R185) -/

/-- Status codes; the empty slot reads 0x00. -/
def Status.code : Status → Byte
  | .ok => 0x01
  | .accepted => 0x02
  | .queued => 0x03
  | .grantedNow => 0x04
  | .badHandle => 0x10
  | .gone => 0x11
  | .wrongState => 0x12
  | .badArgument => 0x13
  | .notPermitted => 0x14
  | .notUp => 0x15
  | .alreadyClaimed => 0x16
  | .quotaFull => 0x17
  | .unknownCommand => 0x18

/-- Mode codes. -/
def Mode.code : Mode → Byte
  | .shared => 0x01
  | .exclusive => 0x02

/-- Entry state codes. RELEASING is never reported and has none; it would read 0. -/
def StateName.code : StateName → Byte
  | .queuedLocal => 0x01
  | .claiming => 0x02
  | .backoff => 0x03
  | .held => 0x04
  | .releasing => 0x00
  | .closing => 0x06

/-- Station state codes. -/
def StationState.code : StationState → Byte
  | .offline => 0x00
  | .joining => 0x01
  | .up => 0x02
  | .down => 0x03
  | .halted => 0x04

/-- Cause codes of a last refusal. -/
def FailCause.code : FailCause → Byte
  | .held => 0x01
  | .yield => 0x02
  | .lost => 0x03
  | .timeout => 0x04

/-- Cause codes of a DENIED. -/
def DenyCause.code : DenyCause → Byte
  | .held => 0x01
  | .yield => 0x02
  | .lost => 0x03
  | .timeout => 0x04
  | .ringDown => 0x05
  | .halted => 0x06

/-- Cause codes of a RING_STATE. -/
def RingCause.code : RingCause → Byte
  | .left => 0x07
  | .started => 0x08
  | .joined => 0x09
  | .silence => 0x0A
  | .censusLost => 0x0B
  | .faults => 0x0C
  | .recovered => 0x0D
  | .duplicate => 0x0E

/-- Routing class codes. -/
def RoutingClass.code : RoutingClass → Byte
  | .ring => 0x01
  | .membership => 0x02
  | .faults => 0x03

/-- Kind codes of the lease notices. -/
def LeaseKind.code : LeaseKind → Byte
  | .granted _ => 0x01
  | .contended _ => 0x02
  | .expiring _ => 0x03
  | .denied _ _ _ => 0x04
  | .expired => 0x05

/-! ### Fields (R183, R184) -/

/-- A number as one byte. -/
def byte (n : Nat) : Byte := BitVec.ofNat 8 n

/-- A number as two bytes, most significant first. -/
def two (n : Nat) : List Byte := [byte (n / 256), byte n]

/-- A number as three bytes, most significant first. -/
def three (n : Nat) : List Byte := [byte (n / 65536), byte (n / 256), byte n]

/-- A number as four bytes, most significant first. -/
def four (n : Nat) : List Byte := [byte (n / 16777216), byte (n / 65536), byte (n / 256), byte n]

/-- A flag byte: 1 for yes. -/
def flagByte (b : Bool) : Byte := if b then 1 else 0

/-- A station number that may be absent: bit 7 is its presence (R184). -/
def optionalStation : Option StationNo → Byte
  | none => 0x00
  | some n => (2 : BitVec 2) ++ n

/-- A list of bytes brought to a length with zeros. -/
def padTo (n : Nat) (bs : List Byte) : List Byte := (bs ++ List.replicate n 0).take n

/-- The flags of a window in one byte: bit 0 enabled, bit 1 SHARED right, bit 2 EXCLUSIVE right (R186, R187). -/
def Window.flags (w : Window) : Byte :=
  flagByte w.enabled ||| (flagByte w.sharedRight <<< 1) ||| (flagByte w.exclusiveRight <<< 2)

/-- The presence flags of a QUERY result, byte 11 (R187). -/
def QueryValues.flags (q : QueryValues) : Byte :=
  flagByte q.remaining.isSome ||| (flagByte q.remoteDemand.isSome <<< 1) |||
    (flagByte (q.remoteDemand == some true) <<< 2) ||| (flagByte q.lastRefusal.isSome <<< 3)

/-- The last refusal of a QUERY result: cause and objector, zeros when absent (R184, R187). -/
def refusalBytes : Option LastRefusal → List Byte
  | none => [0, 0]
  | some r => [r.cause.code, optionalStation r.objector]

/-- The value bytes of a result, from byte 3 on (R187). -/
def ResultValues.bytes : ResultValues → List Byte
  | .nothing => []
  | .handle i g => [byte i.val, byte g.toNat]
  | .granted i g term => [byte i.val, byte g.toNat] ++ two term
  | .state x => [x.code]
  | .renewed term remaining => two term ++ two remaining
  | .query q =>
    [q.state.code, q.mode.code] ++ three q.tag.toNat ++ [byte q.attempts] ++ two (q.remaining.getD 0) ++ [q.flags] ++
      refusalBytes q.lastRefusal
  | .status v =>
    [v.station.code, byte v.number.toNat] ++ four v.identity.toNat ++
      [byte v.faultScore, flagByte v.faultWarning, byte v.members] ++ three v.lastCircuit ++
      [byte v.freeEntries, byte v.nonFree, byte v.quota, byte v.queueCount] ++ four v.timestamp.toNat
  | .member index count entry =>
    [byte index, byte count, flagByte entry.isSome] ++
      (match entry with
        | none => []
        | some m => byte m.number.toNat :: four m.identity.toNat)
  | .reset target issuing freed after => [byte target.val, byte issuing.val, byte freed, byte after]
  | .left freed => [byte freed]
  | .settings x =>
    [byte x.stationNumber.toNat, byte x.ringLimit, byte x.circuitTimeout, byte x.retryInterval] ++
      two x.censusInterval ++ [byte x.warningMargin]
  | .limits target l => [byte target.val, byte l.quota, byte l.ceiling] ++ two l.maxTerm
  | .window target k w => [byte target.val, byte k.val] ++ three w.value.toNat ++ three w.mask.toNat ++ [w.flags]
  | .route c target => [c.code, byte target.val]

/-- The 24 bytes of a result slot; NONE reads as zeros (R184, R187). -/
def slotBytes : Option ResultRecord → List Byte
  | none => List.replicate 24 0
  | some r => padTo 24 ([r.code, r.echo, r.status.code] ++ r.values.bytes)

/-- What a READ RESULT decoded now shifts out on a channel (R148, R180). -/
def State.resultBytes (s : State) (c : Channel) : List Byte := slotBytes (s.channel c).slot

/-- The marks byte of a lease notice (R188). -/
def Marks.code (m : Marks) : Byte :=
  flagByte m.contended ||| (flagByte m.expiring <<< 1) ||| (flagByte m.handedOn <<< 2) ||| (flagByte m.granted <<< 3)

/-- Byte 12 of a lease notice, by kind (R188). -/
def LeaseKind.byte12 : LeaseKind → Byte
  | .granted m => m.code
  | .contended n => byte n.toNat
  | .expiring ms => byte ms
  | .denied cause _ _ => cause.code
  | .expired => 0

/-- Bytes 13 and 14 of a lease notice: objector and attempts made of a DENIED (R188). -/
def LeaseKind.tailBytes : LeaseKind → List Byte
  | .denied _ objector attempts => [optionalStation objector, byte attempts]
  | .granted _ | .contended _ | .expiring _ | .expired => [0, 0]

/-- The suppressed classes of a STATION_SUMMARY (R188). -/
def Suppressed.code (x : Suppressed) : Byte :=
  flagByte x.ring ||| (flagByte x.membership <<< 1) ||| (flagByte x.faults <<< 2) ||| (flagByte x.void <<< 3)

/-- The 16 bytes of an event record (R188). -/
def EventRecord.bytes : EventRecord → List Byte
  | .lease n =>
    padTo 16 ([n.kind.code, 0x00] ++ four n.timestamp.toNat ++ [byte n.index.val, byte n.generation.toNat] ++
      three n.tag.toNat ++ [n.marks.code, n.kind.byte12] ++ n.kind.tailBytes)
  | .void t => padTo 16 ([0x06, 0x00] ++ four t.toNat ++ List.replicate 6 0 ++ [0x07])
  | .ringState t cause x dup =>
    padTo 16 ([0x10, 0x01] ++ four t.toNat ++ [cause.code, x.code, optionalStation dup])
  | .membership t count => padTo 16 ([0x11, 0x01] ++ four t.toNat ++ List.replicate 3 0 ++ [byte count])
  | .faultWarning t score raised =>
    padTo 16 ([0x12, 0x01] ++ four t.toNat ++ List.replicate 4 0 ++ [byte score, flagByte raised])
  | .stationSummary t count score warning set =>
    padTo 16 ([0x13, 0x01] ++ four t.toNat ++ List.replicate 3 0 ++
      [byte count, byte score, flagByte warning, set.code])
  | .empty t => padTo 16 ([0x00, 0x01] ++ four t.toNat)

/-- The bytes a port shifts out after the opcode, from the copy it took; every byte after them reads 0x00 (R178, R180). -/
def ReadCopy.bytes : ReadCopy → List Byte
  | .zeros => []
  | .event r => r.bytes
  | .attention count deferral portError => [byte count, flagByte deferral ||| (flagByte portError <<< 1)]
  | .result slot => slotBytes slot

end Sys2Proof.Machine
end

