-- ==== Sys2Proof/Machine/Ports.lean ====
section
/-! DEFINITION. The four channel ports at their pins (R178 to R182): select, clock and data. The opcode table has no row for
these events, so they are no commands: they are what a host does outside, and the transactions they make up put the table's
commands into the queue (log entry 16). A host event stands in time behind the commands that wait, so the queue is run dry
before it. -/

namespace Sys2Proof.Machine

/-- The port of a channel. -/
def State.port (s : State) (ch : Channel) : Port := s.ports.get ch

/-- The state with the port of a channel replaced. -/
def State.setPort (s : State) (ch : Channel) (p : Port) : State := { s with ports := s.ports.set ch.val p ch.isLt }

/-- The command of a transaction joins the queue; a transaction without one adds nothing. -/
def State.hands (s : State) (c : Option Instr) : State := { s with pending := s.pending ++ c.toList }

/-- Select falls (R178): a transaction begins; while RSTn is low the port takes none, and this select is ignored. -/
def State.selectFalls (s : State) (ch : Channel) : State :=
  match s.port ch with
  | .idle => s.setPort ch (if s.rstnLow then .ignored else .active .opcode [])
  | .active _ _ | .ignored => s

/-- Opcode decode (R178, R180, R181). READ RESULT copies the slot in the port itself, since the opcode table has no row for it;
READ EVENT, READ ATTENTION and an unknown opcode are commands of the table. -/
def State.opcodeDecoded (s : State) (ch : Channel) (opcode : Byte) : State :=
  if opcode = 0x01 then s.setPort ch (.active (.writing []) [])
  else if opcode = 0x02 then
    (s.modifyChannel ch fun c => { c with readCopy := .result c.slot }).setPort ch (.active (.shifting 0) [])
  else (s.hands (decodeTransaction ch [opcode])).setPort ch (.active (.shifting 0) [])

/-- A whole byte has come from the host (R178, R179): the opcode, a record byte, or a byte that is ignored. -/
def State.byteReceived (s : State) (ch : Channel) (phase : PortPhase) (b : Byte) : State :=
  match phase with
  | .opcode => s.opcodeDecoded ch b
  | .writing bytes => s.setPort ch (.active (.writing (bytes ++ [b])) [])
  | .shifting sent => s.setPort ch (.active (.shifting (sent + 1)) [])

/-- Eight bits as a byte, most significant bit first (R178). -/
def byteOfBits (bits : List Bool) : Byte := bits.foldl (fun b x => (b <<< 1) ||| (if x then 1 else 0)) 0

/-- One cycle of the port's clock: data-in is sampled (R178). A byte counts when its eighth bit has been clocked. -/
def State.clockBit (s : State) (ch : Channel) (sdi : Bool) : State :=
  match s.port ch with
  | .idle | .ignored => s
  | .active phase bits =>
    if bits.length < 7 then s.setPort ch (.active phase (bits ++ [sdi]))
    else s.byteReceived ch phase (byteOfBits (bits ++ [sdi]))

/-- Select rises (R178, R179): the bits of a byte that is not whole are discarded, and a WRITE COMMAND hands on its record, or
ends short. -/
def State.selectRises (s : State) (ch : Channel) : State :=
  match s.port ch with
  | .active (.writing bytes) _ => (s.hands (decodeTransaction ch (0x01 :: bytes))).setPort ch .idle
  | .active .opcode _ | .active (.shifting _) _ | .idle | .ignored => s.setPort ch .idle

/-- The byte that the port shifts out at this place of a transaction (R178, R180): 0x00 during the opcode, in a WRITE COMMAND
and past the end of the data. -/
def State.outByte (s : State) (ch : Channel) : PortPhase → Byte
  | .opcode | .writing _ => 0x00
  | .shifting sent => ((s.channel ch).readCopy.bytes[sent]?).getD 0x00

/-- Data-out of a port (R178, R182): none is high impedance, while select is high, while RSTn is low, and while a select that
fell then or was abandoned is ignored (log entry 25); else the level at which the next bit is read. -/
def State.dataOut (s : State) (ch : Channel) : Option Bool :=
  if s.rstnLow then none
  else
    match s.port ch with
    | .idle | .ignored => none
    | .active phase bits => some ((s.outByte ch phase).getMsbD bits.length)

end Sys2Proof.Machine
end

