-- ==== Sys2Proof/Safety.lean ====
section
/-! DEFINITION. What the manual says of every state of the block, in the terms the statements use. Each is a property of
one state; the statements say that the reset state has it and that every step keeps it. -/

namespace Sys2Proof.Machine

/-! ### The Event Block (R126, R133) -/

/-- A queue holds at most 24 records, and the deferral list is non-empty only while the queue holds 24 (R126, R133). -/
def ChannelState.Bounded (c : ChannelState) : Prop :=
  c.queue.length ≤ Config.queueCapacity ∧ (c.deferral ≠ [] → c.queue.length = Config.queueCapacity)

/-- Every channel's queue and deferral list are so. -/
def State.QueuesBounded (s : State) : Prop := ∀ c, (s.channel c).Bounded

/-! ### The Lease Table (R14, R15, R62) -/

/-- HELD, CLAIMING, BACKOFF or RELEASING: the states that take part in the tag (1.3). -/
def Tenancy.isActive (t : Tenancy) : Bool := t.isHeld || t.blocks

/-- Two active entries of the station stand on one tag only as two SHARED holders: no HELD EXCLUSIVE beside a HELD entry
(R14), at most one CLAIMING or BACKOFF and none beside a HELD or RELEASING one (R15), at most one RELEASING (R62). -/
def State.Exclusive (s : State) : Prop :=
  ∀ i j t u, i ≠ j → s.tenancy i = some t → s.tenancy j = some u → t.tag = u.tag → t.isActive = true →
    u.isActive = true → t.isHeld = true ∧ u.isHeld = true ∧ t.mode = .shared ∧ u.mode = .shared

/-- The wait lists hold each QUEUED_LOCAL entry once and nothing else (R16). -/
def State.WaitListsExact (s : State) : Prop :=
  s.lease.waiting.Nodup ∧ ∀ i, i ∈ s.lease.waiting ↔ ∃ t, s.tenancy i = some t ∧ t.state = .queuedLocal

/-- The send list holds one claim item for each CLAIMING entry whose frame is QUEUED, one release item for each RELEASING
entry whose frame is QUEUED, one census item while the census is QUEUED, and nothing else (R26, R63, R86, R109). -/
def State.SendListExact (s : State) : Prop :=
  s.frames.sendList.Nodup ∧
    (∀ i, SendItem.claim i ∈ s.frames.sendList ↔ ∃ t lost, s.tenancy i = some t ∧ t.state = .claiming .queued lost) ∧
    (∀ i, SendItem.release i ∈ s.frames.sendList ↔ ∃ t, s.tenancy i = some t ∧ t.state = .releasing .queued) ∧
    (SendItem.census ∈ s.frames.sendList ↔ s.station.census = .queued)

/-- Each entry with a notice in its slot stands once in its owner's deferral list and in no other, a list holds the summary
marker at most once, and a CLOSING entry has a notice in its slot (R10, R133, R135). -/
def State.DeferralExact (s : State) : Prop :=
  (∀ c, ((s.channel c).deferral.filter fun x => !x.isMarker).Nodup ∧
      ((s.channel c).deferral.filter DeferralItem.isMarker).length ≤ 1 ∧
      ∀ i, DeferralItem.entry i ∈ (s.channel c).deferral ↔
        ∃ t, s.tenancy i = some t ∧ t.owner = c ∧ t.deferred ≠ none) ∧
    ∀ i t, s.tenancy i = some t → t.state = .closing → t.deferred ≠ none

/-- Attachment follows the state (R7, R8): QUEUED_LOCAL, BACKOFF and HELD entries and CLAIMING entries whose frame is
QUEUED are attached, RELEASING entries are detached. -/
def Tenancy.AttachmentFollows (t : Tenancy) : Prop :=
  match t.state with
  | .queuedLocal | .backoff _ | .held _ _ | .claiming .queued _ => t.attached = true
  | .releasing _ => t.attached = false
  | .claiming (.inFlight _ _) _ | .closing => True

/-- Attachment follows the state at every entry, and no channel has two attached entries on one tag (R7). -/
def State.AttachmentLaw (s : State) : Prop :=
  (∀ i t, s.tenancy i = some t → t.AttachmentFollows) ∧
    ∀ i j t u, i ≠ j → s.tenancy i = some t → s.tenancy j = some u → t.attached = true → u.attached = true →
      t.owner = u.owner → t.tag ≠ u.tag

/-- The fields of an entry lie in their ranges (R2), its term within its channel's max term (R168), its attempts within
its attempt limit and below it while an attempt remains to be made (R27, R38). -/
def Tenancy.InRange (l : Limits) (t : Tenancy) : Prop :=
  t.priority ≤ 7 ∧ 1 ≤ t.attemptLimit ∧ t.attemptLimit ≤ 15 ∧ t.attempts ≤ t.attemptLimit ∧ 1 ≤ t.term ∧
    t.term ≤ l.maxTerm ∧
    match t.state with
    | .queuedLocal => t.attempts = 0
    | .claiming .queued _ | .backoff _ => t.attempts < t.attemptLimit
    | .held remaining _ => remaining ≤ t.term
    | .claiming (.inFlight _ _) _ | .releasing _ | .closing => True

/-- Every entry's fields are so. -/
def State.EntriesInRange (s : State) : Prop := ∀ i t, s.tenancy i = some t → t.InRange (s.limits t.owner)

/-! ### The station off the ring (R92, R106, R122) -/

/-- Nothing is under way: every entry FREE, no wait list, no change to take, nothing to send or to judge, no view, no
timer of the station running. -/
def State.Quiet (s : State) : Prop :=
  (∀ i, s.tenancy i = none) ∧ s.lease.waiting = [] ∧ s.lease.changes = [] ∧ s.frames.sendList = [] ∧
    s.frames.arrivals = [] ∧ s.station.view = [] ∧ s.station.census = .none ∧ s.station.holdOff = none ∧
    s.station.interval = none ∧ s.line.transit = []

/-- The station state, leaving and the insertion mode move together (R92): OFFLINE with BYPASSED, leaving with DRAINING;
and nothing is under way in OFFLINE or while leaving (R106, R121). -/
def State.StationLine (s : State) : Prop :=
  (s.station.state = .offline ↔ s.line.mode = .bypassed) ∧
    (s.station.leaving = true ↔ s.line.mode = .draining) ∧
    (s.station.state = .offline ∨ s.station.leaving = true → s.Quiet)

/-! ### Bounds -/

/-- The transit store holds at most 512 words (R96). -/
def State.TransitBounded (s : State) : Prop := transitWords s.line.transit ≤ Config.transitCapacity

/-- The items of the station record and the receive store lie within their ranges (R94, R105, R114, R115). -/
def State.RecordInRange (s : State) : Prop :=
  s.station.faultScore ≤ 255 ∧ s.station.lastCircuit ≤ 255000 ∧ s.station.censusLosses ≤ 1 ∧ s.station.view.length ≤ 64 ∧
    ∀ store violation overlong, s.line.receiver = .inFrame store violation overlong → store.length ≤ 197

/-- The limits of every channel lie in their ranges (R168). -/
def State.LimitsInRange (s : State) : Prop :=
  ∀ c, (s.limits c).quota ≤ 64 ∧ (s.limits c).ceiling ≤ 7 ∧ 1 ≤ (s.limits c).maxTerm ∧ (s.limits c).maxTerm ≤ 65535

/-- The backoff and the circuit timer of an entry count down from at most four times the longest retry interval and from the
longest circuit timeout (R11, R38, R166). The term timer is the remaining term, in Tenancy.InRange. -/
def EntryState.TimerInRange : EntryState → Prop
  | .backoff timer => timer ≤ 1020
  | .claiming (.inFlight _ circuit) _ | .releasing (.inFlight _ circuit) => circuit ≤ 255
  | .claiming .queued _ | .releasing .queued | .queuedLocal | .held _ _ | .closing => True

/-- Every timer counts down from at most its longest start, and the transmitter's counts stay within the frame and the gap:
entries (R11), join hold-off (R108), census interval and census circuit timer (R105, R109, R110), settle and silence timer (R93,
R100), words sent and IDLE words owed (R97, R98). -/
def State.TimersInRange (s : State) : Prop :=
  (∀ i t, s.tenancy i = some t → t.state.TimerInRange) ∧ (∀ timer, s.station.holdOff = some timer → timer ≤ 510) ∧
    (∀ timer, s.station.interval = some timer → timer ≤ 2550) ∧
    (∀ serial origin circuit, s.station.census = .inFlight serial origin circuit → circuit ≤ 255) ∧
    (∀ timer, s.line.mode = .settling timer → timer ≤ 5000) ∧
    (∀ timer, s.line.detector = .present timer → timer ≤ 50) ∧
    (∀ ws sent, s.line.transmitter = .sending ws sent → 1 ≤ sent ∧ sent ≤ ws.length + 1) ∧
    ∀ owed, s.line.transmitter = .idle owed → owed ≤ 2

/-- Every setting lies in its range (R166). -/
def State.SettingsInRange (s : State) : Prop := s.config.settings.inRange = true

/-- While the station is not OFFLINE the quotas add up to at most 64 (R13, R175). -/
def State.QuotasFit (s : State) : Prop :=
  s.station.state ≠ .offline → s.config.quotaSum ≤ Config.quotaTotal

/-- No channel owns more entries than its quota (R13). -/
def State.QuotaHeld (s : State) : Prop := ∀ c, s.nonFree c ≤ (s.limits c).quota

/-! ### Words of the statements -/

/-- A lease notice or a station event raised to this channel finds room: the queue holds fewer than 24 records and the
deferral list is empty (R132, R136). -/
def State.RoomAt (s : State) (c : Channel) : Prop := (s.channel c).queue.length < 24 ∧ (s.channel c).deferral = []

/-- The arguments of a CLAIM lie in the ranges of check 2 (R152). -/
def ClaimInRange (l : Limits) (mode priority : Byte) (term : Word) (limit : Byte) : Prop :=
  (mode = 0x01 ∨ mode = 0x02) ∧ priority.toNat ≤ 7 ∧ 1 ≤ term.toNat ∧ term.toNat ≤ l.maxTerm ∧ 1 ≤ limit.toNat ∧
    limit.toNat ≤ 15

/-- The mode a mode byte stands for, when it is one (R185). -/
def ModeByte (b : Byte) (m : Mode) : Prop := (b = 0x01 ∧ m = .shared) ∨ (b = 0x02 ∧ m = .exclusive)

/-- One window permits a claim: it is enabled, it has the tag's bit wherever its mask has a one, and it grants the right
for the mode (R170, R171). -/
def Window.Allows (w : Window) (tag : Tag) (m : Mode) : Prop :=
  w.enabled = true ∧ (∀ b, w.mask.getLsbD b = true → tag.getLsbD b = w.value.getLsbD b) ∧
    (m = .shared → w.sharedRight = true) ∧ (m = .exclusive → w.exclusiveRight = true)

/-- One of the channel's windows permits the claim (R171). -/
def State.WindowAllows (s : State) (ch : Channel) (tag : Tag) (m : Mode) : Prop :=
  ∃ k : WindowIx, ((s.windows ch).get k).Allows tag m

/-- The channel has an attached entry on the tag (R7). -/
def State.AttachedOn (s : State) (ch : Channel) (tag : Tag) : Prop :=
  ∃ i t, s.tenancy i = some t ∧ t.owner = ch ∧ t.attached = true ∧ t.tag = tag

/-- A CLAIM passes its six checks (R151). -/
def State.ClaimPasses (s : State) (ch : Channel) (tag : Tag) (mode priority : Byte) (term : Word) (limit : Byte) (m : Mode) :
    Prop :=
  s.station.state = .up ∧ s.station.leaving = false ∧ ClaimInRange (s.limits ch) mode priority term limit ∧
    ModeByte mode m ∧ priority.toNat ≤ (s.limits ch).ceiling ∧ s.WindowAllows ch tag m ∧ ¬ s.AttachedOn ch tag ∧
    s.nonFree ch < (s.limits ch).quota

/-- The FREE entry with the lowest index (R3). -/
def State.LowestFree (s : State) (i : EntryIx) : Prop := s.tenancy i = none ∧ ∀ j, j < i → s.tenancy j ≠ none

/-- The tenancy an accepted CLAIM opens, in a state that its acceptance case gives (R4). -/
def opened (ch : Channel) (tag : Tag) (m : Mode) (priority : Byte) (term : Word) (limit : Byte) (x : EntryState) : Tenancy :=
  { owner := ch, attached := true, tag := tag, mode := m, priority := priority.toNat, attemptLimit := limit.toNat,
    attempts := 0, term := term.toNat, state := x, lastRefusal := none, contendedNotified := false,
    expiringNotified := false, deferred := none }

/-- The state with this tenancy opened in an entry, whose generation goes up by one (R4, R5). -/
def State.openedAt (s : State) (i : EntryIx) (t : Tenancy) : State :=
  s.setEntry i { generation := (s.entry i).generation + 1, tenancy := some t }

/-- An entry on the tag is CLAIMING, BACKOFF or RELEASING, which makes case 1 apply (R18, R22). -/
def State.Blocked (s : State) (tag : Tag) : Prop := ∃ i t, s.tenancy i = some t ∧ t.tag = tag ∧ t.blocks = true

/-- An entry on the tag is HELD (R19). -/
def State.HeldOn (s : State) (tag : Tag) : Prop := ∃ i t, s.tenancy i = some t ∧ t.tag = tag ∧ t.isHeld = true

/-- An entry on the tag is HELD in mode EXCLUSIVE. -/
def State.HeldExclusiveOn (s : State) (tag : Tag) : Prop :=
  ∃ i t, s.tenancy i = some t ∧ t.tag = tag ∧ t.isHeld = true ∧ t.mode = .exclusive

/-- The handle of a commanding channel names this attached tenancy (R12, last line). -/
def State.Names (s : State) (ch : Channel) (index generation : Byte) (i : EntryIx) (t : Tenancy) : Prop :=
  index.toNat = i.val ∧ s.tenancy i = some t ∧ t.owner = ch ∧ generation.toNat = (s.entry i).generation.toNat ∧
    t.attached = true

/-- The handle matches no entry of the commanding channel: its index is above 63, or the entry is FREE, or another
channel's, or in another generation (R12, first four lines; R154). -/
def State.HandleBad (s : State) (ch : Channel) (index generation : Byte) : Prop :=
  64 ≤ index.toNat ∨
    ∃ i : EntryIx, i.val = index.toNat ∧
      ∀ t, s.tenancy i = some t → t.owner ≠ ch ∨ generation.toNat ≠ (s.entry i).generation.toNat

/-- The handle names a detached entry (R12, fifth line). -/
def State.HandleGone (s : State) (ch : Channel) (index generation : Byte) : Prop :=
  ∃ (i : EntryIx) (t : Tenancy), i.val = index.toNat ∧ s.tenancy i = some t ∧ t.owner = ch ∧
    generation.toNat = (s.entry i).generation.toNat ∧ t.attached = false

/-- The entry is FREE with its generation kept, out of the wait lists, its send list item removed (R9). -/
def State.freed (s : State) (i : EntryIx) : State :=
  ((s.setSendList (s.frames.sendList.filter fun x => x ≠ .claim i ∧ x ≠ .release i)).setWaiting
    (s.lease.waiting.filter (· ≠ i))).setEntry i { generation := (s.entry i).generation, tenancy := none }

/-- The entry is RELEASING and detached, its frame QUEUED with a release item at the tail of the send list (R59). -/
def State.toTheRing (s : State) (i : EntryIx) : State :=
  (s.modifyTenancy i ({ · with attached := false, state := .releasing .queued })).setSendList
    (s.frames.sendList ++ [.release i])

/-- An entry leaving HELD is the last HELD entry on its tag (R57). -/
def State.LastHolder (s : State) (i : EntryIx) (tag : Tag) : Prop :=
  ∀ j t, j ≠ i → s.tenancy j = some t → t.tag = tag → t.isHeld = false

/-- An entry fails its attempt, with attempts remaining: the last refusal is recorded and the entry goes to BACKOFF (R37,
R38, R42). -/
def State.backsOff (s : State) (i : EntryIx) (cause : FailCause) (objector : Option StationNo) (timer : Nat) : State :=
  s.modifyTenancy i
    ({ · with lastRefusal := some { cause := cause, objector := objector }, state := .backoff timer })

/-- An entry fails its last attempt: the last refusal is recorded, DENIED is raised with the attempts made, the tenancy
ends and the wait list of its tag is examined (R37, R39, R42). -/
def State.denied (s : State) (i : EntryIx) (t : Tenancy) (cause : FailCause) (objector : Option StationNo) : State :=
  (((s.modifyTenancy i ({ · with lastRefusal := some { cause := cause, objector := objector } })).raiseLease i
    (.denied cause.denyCause objector t.attempts) {}).endTenancy i).examine t.tag

/-- The commands that only channel 0 may issue, with their channel, command code and sequence echo (R147, R177). -/
def channelZeroOnly : Instr → Option (Channel × Byte × Byte)
  | .resetChannelN ch e _ => some (ch, 0x26, e)
  | .start ch e => some (ch, 0x24, e)
  | .leave ch e => some (ch, 0x25, e)
  | .configureStation ch e .. => some (ch, 0x20, e)
  | .setChannelLimits ch e .. => some (ch, 0x21, e)
  | .setWindow ch e .. => some (ch, 0x22, e)
  | .setRoute ch e .. => some (ch, 0x23, e)
  | .claim .. | .release .. | .renew .. | .query .. | .status .. | .members .. | .resetChannel .. | .unknownCommand ..
  | .shortWriteCommand .. | .readEvent _ | .readAttention _ | .unknownOpcode .. | .deviceReset | .upstreamPresent
  | .upstreamSilent | .frameArrival | .frameBoundary | .drainingEndSent | .relaySettleExpiry | .joinHoldOffExpiry
  | .censusIntervalExpiry | .censusLoss | .termTick _ | .termExpiry _ | .backoffExpiry _ | .claimCircuitTimeout _
  | .releaseCircuitTimeout _ | .leaseTableTakesStateChange | .lineWordReceived _ | .frameEndSent
  | .stationTimestampTick | .resetRelease => none

/-- What a channel reset leaves of a channel (R71, R142, R160): its event state is empty, its entries left are detached,
CLAIMING in flight as they were or RELEASING, and none holds a notice. -/
def State.ChannelCleared (t : State) (ch : Channel) : Prop :=
  (t.channel ch).queue = [] ∧ (t.channel ch).deferral = [] ∧
    ∀ i u, t.tenancy i = some u → u.owner = ch → u.attached = false ∧ u.deferred = none ∧
      ((∃ phase, u.state = .releasing phase) ∨ ∃ serial circuit lost, u.state = .claiming (.inFlight serial circuit) lost)

/-- The waiting entries of a tag that a reset of this channel leaves in the list, in their order: those of the other channels
(R71). -/
def State.othersWaiting (s : State) (ch : Channel) (tag : Tag) : List EntryIx :=
  (s.waitList tag).filter fun i => !s.entryMeets (·.owner == ch) i

/-- A reset of its channel takes this entry out of HELD with a hand-on (R58, R71): it is EXCLUSIVE and the last holder of its
tag, without remote demand, and an entry of another channel waits. -/
def State.ResetHandsOn (s : State) (ch : Channel) (i : EntryIx) (u : Tenancy) : Prop :=
  (∃ remaining, u.state = .held remaining false) ∧ u.mode = .exclusive ∧ s.LastHolder i u.tag ∧
    s.othersWaiting ch u.tag ≠ []

/-- A reset of its channel takes this entry out of HELD with a release to the ring (R59, R71): it is the last holder of its
tag, it hands nothing on, and the Lease Table's station state is UP. -/
def State.ResetToTheRing (s : State) (ch : Channel) (i : EntryIx) (u : Tenancy) : Prop :=
  u.isHeld = true ∧ s.LastHolder i u.tag ∧ ¬ s.ResetHandsOn ch i u ∧ s.lease.taken = .up

/-- A channel reset acts on this entry of the channel: it is not RELEASING, and no detached claim in flight (R71). -/
def Tenancy.ResetChanges (u : Tenancy) : Prop :=
  (∀ phase, u.state ≠ .releasing phase) ∧
    ∀ serial circuit lost, u.state = .claiming (.inFlight serial circuit) lost → u.attached = true

/-- What a channel reset does to the entries of the channel (R57 to R60, R71, R142): its claims in flight are detached and its
RELEASING entries stay, each with its slot emptied; its HELD entries that release to the ring are RELEASING; all its others are
FREE. -/
def State.ResetEntries (s : State) (ch : Channel) (t : State) : Prop :=
  ∀ i u, s.tenancy i = some u → u.owner = ch →
    match u.state with
    | .claiming (.inFlight _ _) _ => t.tenancy i = some { u with attached := false, deferred := none }
    | .releasing _ => t.tenancy i = some { u with deferred := none }
    | .queuedLocal | .backoff _ | .claiming .queued _ | .closing => t.tenancy i = none
    | .held _ _ =>
      (s.ResetToTheRing ch i u →
        t.tenancy i = some { u with attached := false, deferred := none, state := .releasing .queued }) ∧
      (¬ s.ResetToTheRing ch i u → t.tenancy i = none)

/-- What a channel reset does elsewhere (R71, R142, R160): an entry of another channel that does not wait is as before;
generations, port-error flags, station, line, configuration and serial stay. -/
def State.ResetActsOn (s : State) (ch : Channel) (t : State) : Prop :=
  s.ResetEntries ch t ∧
    (∀ i u, s.tenancy i = some u → u.owner ≠ ch → u.state ≠ .queuedLocal → t.tenancy i = some u) ∧
    (∀ i, (t.entry i).generation = (s.entry i).generation) ∧
    (∀ d, (t.channel d).portError = (s.channel d).portError) ∧ t.station = s.station ∧ t.line = s.line ∧
    t.config = s.config ∧ t.frames.serial = s.frames.serial

/-- The state that a channel reset reaches before it has the wait lists examined (R71, R142): the channel's entries are dealt
with and out of the wait lists, the items of those made FREE are gone, a release item for each RELEASING one has joined the
tail of the send list in ascending order of index, and the channel's queue and deferral list are empty. The rest stays. -/
def State.ResetBefore (s : State) (ch : Channel) (r : State) : Prop :=
  s.ResetEntries ch r ∧ (∀ i, (∀ u, s.tenancy i = some u → u.owner ≠ ch) → r.tenancy i = s.tenancy i) ∧
    (∀ i, (r.entry i).generation = (s.entry i).generation) ∧ (∀ tag, r.waitList tag = s.othersWaiting ch tag) ∧
    (∃ released : List EntryIx, released.Pairwise (· < ·) ∧
      (∀ i, i ∈ released ↔ ∃ u, s.tenancy i = some u ∧ u.owner = ch ∧ s.ResetToTheRing ch i u) ∧
      r.frames.sendList =
        s.frames.sendList.filter
          (fun x => !allIx.any fun i => x.isOf i && (s.tenancy i).isSome && (r.tenancy i).isNone) ++
        released.map .release) ∧
    r.channel ch = { s.channel ch with queue := [], deferral := [] } ∧ (∀ d, d ≠ ch → r.channel d = s.channel d) ∧
    r.lease.taken = s.lease.taken ∧ r.lease.changes = s.lease.changes ∧ r.frames.serial = s.frames.serial ∧
    r.frames.arrivals = s.frames.arrivals ∧ r.station = s.station ∧ r.line = s.line ∧ r.config = s.config ∧
    r.time = s.time ∧ r.identity = s.identity ∧ r.rstnLow = s.rstnLow ∧ r.ports = s.ports ∧ r.choices = s.choices ∧
    r.pending = s.pending

/-- A channel reset goes from one state to another (R71): from the state before the examinations, the wait list of each tag on
which an entry changed is examined once, in ascending order of tag value, after the hand-on where one is due. -/
def State.ResetExamines (s : State) (ch : Channel) (t : State) : Prop :=
  ∃ (r : State) (tags handOns : List Tag), s.ResetBefore ch r ∧ tags.Pairwise (fun a b => a.toNat < b.toNat) ∧
    (∀ g, g ∈ tags ↔ ∃ i u, s.tenancy i = some u ∧ u.owner = ch ∧ u.tag = g ∧ u.ResetChanges) ∧
    (∀ g, g ∈ handOns ↔ ∃ i u, s.tenancy i = some u ∧ u.owner = ch ∧ u.tag = g ∧ s.ResetHandsOn ch i u) ∧
    t = tags.foldl (fun x g => (if g ∈ handOns then x.handOn g else x).examine g) r

/-- The station enters DOWN with a cause (R118). -/
def State.goesDown (s : State) (cause : RingCause) : State :=
  ((s.modifyStation fun r => { r with state := .down, census := r.census.abandon, censusLosses := 0 }).raiseStation .ring
    (.ringState s.station.timestamp cause .down none)).setChanges (s.lease.changes ++ [.down])

/-- The station enters HALTED (R120). -/
def State.halts (s : State) : State :=
  (((s.modifyStation fun r =>
        { r with state := .halted, census := .none, awaitsUpstream := false, holdOff := none, interval := none,
                 censusLosses := 0 }).setSendList (s.frames.sendList.filter (· ≠ .census))).raiseStation .ring
    (.ringState s.station.timestamp .duplicate .halted (some s.config.settings.stationNumber))).setChanges
    (s.lease.changes ++ [.halted])

/-- The station enters UP with a list as its view (R112). The Lease Table's view of the state follows at once, or right after
the changes it has not taken (log entry 11). -/
def State.goesUp (s : State) (members : List Member) (cause : RingCause) : State :=
  let u := (s.modifyStation fun r =>
      { r with state := .up, view := members, censusLosses := 0,
               interval := some s.config.settings.censusInterval }).raiseStation .ring
    (.ringState s.station.timestamp cause .up none)
  if s.lease.changes = [] then u.setTaken .up else u.setChanges (s.lease.changes ++ [.up])

/-- MEMBERSHIP with the new member count, when the sequence of station numbers differs from the previous view's (R112, R114). -/
def State.reportsMembership (s : State) (previous members : List Member) : State :=
  if previous.map Member.number = members.map Member.number then s
  else s.raiseStation .membership (.membership s.station.timestamp members.length)

/-- A census item joins the send list (R109). -/
def State.queuesCensus (s : State) : State :=
  (s.modifyStation ({ · with census := .queued, awaitsUpstream := false })).setSendList (s.frames.sendList ++ [.census])

/-- A timer of this entry is at 0, and this command is its expiry (R11, R40, R42, R43, R54, R65). -/
def State.EntryExpires (s : State) (i : EntryIx) (c : Instr) : Prop :=
  ∃ u, s.tenancy i = some u ∧
    ((∃ demand, u.state = .held 0 demand ∧ c = .termExpiry i) ∨
      (u.state = .backoff 0 ∧ c = .backoffExpiry i) ∨
      (∃ serial lost, u.state = .claiming (.inFlight serial 0) lost ∧ c = .claimCircuitTimeout i) ∨
      ∃ serial, u.state = .releasing (.inFlight serial 0) ∧ c = .releaseCircuitTimeout i)

/-- What a change to DOWN or HALTED does to one entry (R47, R66): an attached CLAIMING and a BACKOFF entry is denied with the
change's cause, its attempts made and no objector; a detached CLAIMING and a RELEASING entry ends without a notice; any other
entry, and a FREE one, is left as it is. -/
def State.EntryChanged (s : State) (cause : DenyCause) (i : EntryIx) (t : State) : Prop :=
  (s.tenancy i = none → t = s) ∧
    ∀ u, s.tenancy i = some u →
      match u.state with
      | .claiming _ _ =>
        (u.attached = true → t = (s.raiseLease i (.denied cause none u.attempts) {}).endTenancy i) ∧
          (u.attached = false → t = s.endTenancy i)
      | .backoff _ => t = (s.raiseLease i (.denied cause none u.attempts) {}).endTenancy i
      | .releasing _ => t = s.endTenancy i
      | .queuedLocal | .held _ _ | .closing => t = s

/-- What an objecting holder's demand does to one entry (R29, R30): an entry HELD on the tag has its remote demand and its
contended notified set, and where it had not been notified before, CONTENDED with the claimant is then raised to its owner; any
other entry is left as it is. -/
def State.EntryDemanded (s : State) (tag : Tag) (claimant : StationNo) (i : EntryIx) (t : State) : Prop :=
  ((∀ u, s.tenancy i = some u → u.tag ≠ tag ∨ u.isHeld = false) → t = s) ∧
    ∀ u remaining demand d, s.tenancy i = some u → u.tag = tag → u.state = .held remaining demand →
      d = s.modifyTenancy i ({ · with state := .held remaining true, contendedNotified := true }) →
      (u.contendedNotified = true → t = d) ∧
        (u.contendedNotified = false → t = d.raiseLease i (.contended claimant) {})

/-- The block is held in reset: RSTn is low and every block stands at its device-reset values (R3, R103, R105, R144, R145,
R165). Of the identity, the timebase, the waiting commands, the count of choices and the ports' pins nothing is said. -/
def State.HeldInReset (s : State) : Prop :=
  s = { State.reset with
    identity := s.identity, time := s.time, rstnLow := true, pending := s.pending, choices := s.choices, ports := s.ports }

/-- The Frame Processor takes this arrival next: it is the oldest completed frame, the Line Interface is INSERTED and the
station is not OFFLINE (R79). -/
def State.Arrives (s : State) (a : Arrival) (rest : List Arrival) : Prop :=
  s.frames.arrivals = a :: rest ∧ s.line.mode = .inserted ∧ s.station.state ≠ .offline

/-- The state once this arrival has been taken and reported intact (R79, R115, R116). -/
def State.afterIntact (s : State) (rest : List Arrival) : State :=
  (s.modifyFrames ({ · with arrivals := rest })).reportIntact

/-- An intact frame is this station's own (R80). -/
def State.Own (s : State) (f : Frame) : Prop :=
  f.source = s.config.settings.stationNumber ∧ f.check = s.identity.extractLsb' 0 16

end Sys2Proof.Machine
end

