-- ==== Sys2Proof/Certificates/Slice0/Obligations.lean ====
section
/-! DEFINITION. The statements for the provers. Each docstring names the rules of the spec that the statement formalises. An
equation exec c s = .next t says everything the command does: what t does not name is as in s. -/

section

open Sys2Proof Sys2Proof.Machine Host.Outcome

/-! ### The block as a whole -/

/-- One step runs the command at the front of the queue, on the state with the queue's rest. -/
def Obligations.StepRunsTheFrontCommand : Prop :=
  ∀ (s : State) (c : Instr) (rest : List Instr),
    s.pending = c :: rest → step s = exec c { s with pending := rest }

/-- The model's choice (log entry 4): with no command waiting, an event that is due is put into the queue, else the reference
clock advances by one period. Due is, in this order, a completed frame (R79), a change of station state that the Lease Table
has not taken (R47), the timer at 0 of the entry of lowest index (R11, R54), then at 0 the join hold-off (R108), the census
interval (R110), the census circuit timer (R113), the relay settle timer (R101) and the silence timer (R93); nothing else is
due. Every tenth period is a word time (R91): while RSTn is high the transmitter goes on to the next word of its frame, has
the END's event queued after the last data word, counts the gap of two IDLE words after the END, and has a frame boundary
queued after the gap in INSERTED (R97, R98). Every 25th is a 1 us tick, which counts the relay settle and the silence timer
(R93, R100); every 25000th a 1 ms tick, which counts every entry timer but the term timer (R11) and the timers of the Station
Controller (R105) and queues the tick of the station timestamp (R124) and one tick of the term of each HELD entry, in
ascending order of index (R52). Nothing else changes. The word on ring-out is START, the data words in order and END while a
frame is sent, IDLE otherwise, and none while RSTn is low (R91, R103, R182). -/
def Obligations.IdleBlockRunsItsClock : Prop :=
  (∀ (s : State) (p : Nat), s.pending = [] → p = s.time.phase + 1 →
    (∀ c, s.due = some c → step s = next { s with pending := [c] }) ∧
    (s.due = none → ∃ (t : State) (events ticks : List Instr), step s = next t ∧
      t.time = { phase := p % 25000, micros := if p % 25 = 0 then s.time.micros + 1 else s.time.micros } ∧
      t.frames = s.frames ∧ t.channels = s.channels ∧ t.config = s.config ∧ t.identity = s.identity ∧
      t.rstnLow = s.rstnLow ∧ t.ports = s.ports ∧ t.choices = s.choices ∧ t.lease.waiting = s.lease.waiting ∧
      t.lease.taken = s.lease.taken ∧ t.lease.changes = s.lease.changes ∧ t.line.receiver = s.line.receiver ∧
      t.line.transit = s.line.transit ∧
      (p % 10 ≠ 0 ∨ s.rstnLow = true → events = [] ∧ t.line.transmitter = s.line.transmitter) ∧
      (p % 10 = 0 → s.rstnLow = false →
        (∀ ws sent, s.line.transmitter = .sending ws sent →
          (sent ≤ ws.length → events = [] ∧ t.line.transmitter = .sending ws (sent + 1)) ∧
          (ws.length < sent → t.line.transmitter = s.line.transmitter ∧
            events = if s.line.mode = .draining then [.drainingEndSent] else [.frameEndSent])) ∧
        (s.line.transmitter = .ended → events = [] ∧ t.line.transmitter = .idle 1) ∧
        (∀ owed, s.line.transmitter = .idle (owed + 1) → events = [] ∧ t.line.transmitter = .idle owed) ∧
        (s.line.transmitter = .idle 0 →
          t.line.transmitter = .idle 0 ∧ events = if s.line.mode = .inserted then [.frameBoundary] else [])) ∧
      (∀ timer, s.line.mode = .settling timer →
        t.line.mode = .settling (if p % 25 = 0 then timer - 1 else timer)) ∧
      ((∀ timer, s.line.mode ≠ .settling timer) → t.line.mode = s.line.mode) ∧
      (∀ timer, s.line.detector = .present timer →
        t.line.detector = .present (if p % 25 = 0 then timer - 1 else timer)) ∧
      (s.line.detector = .silent → t.line.detector = .silent) ∧
      (p % 25000 ≠ 0 → t.pending = events ∧ (∀ i, t.entry i = s.entry i) ∧ t.station = s.station) ∧
      (p % 25000 = 0 → t.pending = events ++ .stationTimestampTick :: ticks ∧
        (∃ held : List EntryIx, held.Pairwise (· < ·) ∧
          (∀ i, i ∈ held ↔ ∃ u, s.tenancy i = some u ∧ u.isHeld = true) ∧ ticks = held.map .termTick) ∧
        (∀ i, (t.entry i).generation = (s.entry i).generation ∧
          t.tenancy i = (s.tenancy i).map fun u => { u with state := u.state.tick }) ∧
        t.station = { s.station with
          census := s.station.census.tick
          holdOff := s.station.holdOff.map (· - 1)
          interval := s.station.interval.map (· - 1) }))) ∧
  (∀ serial circuit timer lost origin,
    (EntryState.claiming (.inFlight serial circuit) lost).tick = .claiming (.inFlight serial (circuit - 1)) lost ∧
    (EntryState.releasing (.inFlight serial circuit)).tick = .releasing (.inFlight serial (circuit - 1)) ∧
    (EntryState.backoff timer).tick = .backoff (timer - 1) ∧
    (Census.inFlight serial origin circuit).tick = .inFlight serial origin (circuit - 1)) ∧
  (∀ x : EntryState, (∀ serial circuit lost, x ≠ .claiming (.inFlight serial circuit) lost) →
    (∀ serial circuit, x ≠ .releasing (.inFlight serial circuit)) → (∀ timer, x ≠ .backoff timer) → x.tick = x) ∧
  (∀ s : State,
    (s.frames.arrivals ≠ [] → s.due = some .frameArrival) ∧
    (s.frames.arrivals = [] → s.lease.changes ≠ [] → s.due = some .leaseTableTakesStateChange) ∧
    (s.frames.arrivals = [] → s.lease.changes = [] →
      (∀ i c, s.EntryExpires i c → (∀ j d, j < i → ¬ s.EntryExpires j d) → s.due = some c) ∧
      ((∀ i c, ¬ s.EntryExpires i c) →
        (s.station.holdOff = some 0 → s.due = some .joinHoldOffExpiry) ∧
        (s.station.holdOff ≠ some 0 →
          (s.station.interval = some 0 → s.due = some .censusIntervalExpiry) ∧
          (s.station.interval ≠ some 0 →
            (∀ serial origin, s.station.census = .inFlight serial origin 0 → s.due = some .censusLoss) ∧
            ((∀ serial origin, s.station.census ≠ .inFlight serial origin 0) →
              (s.line.mode = .settling 0 → s.due = some .relaySettleExpiry) ∧
              (s.line.mode ≠ .settling 0 →
                (s.line.detector = .present 0 → s.due = some .upstreamSilent) ∧
                (s.line.detector ≠ .present 0 → s.due = none)))))))) ∧
  ∀ s : State,
    (s.rstnLow = true → s.ringOutWord = none) ∧
    (s.rstnLow = false →
      (∀ owed, s.line.transmitter = .idle owed → s.ringOutWord = some .idle) ∧
      (s.line.transmitter = .ended → s.ringOutWord = some .fin) ∧
      ∀ ws sent, s.line.transmitter = .sending ws sent →
        (sent = 1 → s.ringOutWord = some .start) ∧
        ∀ k w, sent = k + 2 → ws[k]? = some w → s.ringOutWord = some (.data w))

/-- Every command completes, whatever the state: none ends in a fault or a refusal. It leaves the commands that wait, the
unit identity (R119) and the timebase as they are, and only a frame boundary and a device reset change the frame serial
counter (R85; that the timebase and the queue stay is the model's, log entries 3 and 24). A command leaves every channel port as
it stands, but for a device reset; and the copy that a port shifts out changes by a read or an unknown opcode on its own channel
alone, and by a device reset (R180, R181). -/
def Obligations.EveryCommandCompletes : Prop :=
  ∀ (c : Instr) (s : State), ∃ t, exec c s = next t ∧ t.pending = s.pending ∧ t.identity = s.identity ∧ t.time = s.time ∧
    (c ≠ .frameBoundary → c ≠ .deviceReset → t.frames.serial = s.frames.serial) ∧
    (c ≠ .deviceReset → t.ports = s.ports) ∧
    ∀ ch, c ≠ .deviceReset → c ≠ .readEvent ch → c ≠ .readAttention ch → (∀ opcode, c ≠ .unknownOpcode ch opcode) →
      (t.channel ch).readCopy = (s.channel ch).readCopy

/-- After a device reset every item stands at the value the rules give it (R3, R85, R86, R92, R93, R96, R105, R144, R145,
R165). Nothing is said of the unit identity and the timebase, whose values are the model's choice (log entries 1 and 3;
that State.reset stands for the instant after RSTn rises is the model's, log entry 2). -/
def Obligations.ResetLeavesTheManualsValues : Prop :=
  (∀ i, State.reset.entry i = { generation := 0, tenancy := none }) ∧ State.reset.lease.waiting = [] ∧
    State.reset.frames.sendList = [] ∧ State.reset.frames.serial = 0 ∧
    State.reset.station =
      { state := .offline, leaving := false, faultScore := 0, faultWarning := false, timestamp := 0, view := [],
        census := .none, censusLosses := 0, awaitsUpstream := false, lastCircuit := 0, holdOff := none,
        interval := none } ∧
    State.reset.line.mode = .bypassed ∧ State.reset.line.detector = .silent ∧ State.reset.line.receiver = .between ∧
    State.reset.line.transit = [] ∧
    (∀ c, (State.reset.channel c).queue = [] ∧ (State.reset.channel c).deferral = [] ∧
      (State.reset.channel c).slot = none ∧ (State.reset.channel c).portError = false) ∧
    State.reset.config.settings =
      { stationNumber := 0, ringLimit := 64, circuitTimeout := 20, retryInterval := 5, censusInterval := 100,
        warningMargin := 10 } ∧
    (∀ c, State.reset.limits c = { quota := 16, ceiling := 7, maxTerm := 65535 }) ∧
    (∀ c, (State.reset.windows c).get 0 =
        { enabled := true, value := 0, mask := 0, sharedRight := true, exclusiveRight := true } ∧
      ∀ k : WindowIx, k ≠ 0 → (State.reset.windows c).get k =
        { enabled := false, value := 0, mask := 0, sharedRight := false, exclusiveRight := false }) ∧
    State.reset.config.routing = { ring := 0, membership := 0, faults := 0 }

/-- A device reset leaves the same values whatever the block held and keeps the unit identity (R119); a transaction in
progress is abandoned, and its select ignored until it rises. While RSTn is low BYP and every ATTN are deasserted, ring-out
sends no word, data-out of every port is at high impedance and the ports take no transaction; from its rise ring-out sends
IDLE. While the block runs BYP is asserted in every insertion mode but BYPASSED, and ATTN while the channel's queue holds a
record. Whatever step is taken, the block stays at its reset values with these outputs until RSTn rises (R3, R92, R103, R105,
R127, R144, R145, R178, R182; that the timebase, the queue and the count of choices stay, that a command taken while RSTn is
low does nothing and that data-out stays at high impedance while a select is ignored is the model's, log entries 3, 12, 14, 24
and 25). -/
def Obligations.DeviceResetActsInEveryState : Prop :=
  ∀ s : State,
    exec .deviceReset s =
      next { State.reset with
        identity := s.identity, time := s.time, rstnLow := true, pending := s.pending, choices := s.choices,
        ports := s.ports.map fun p => if p = .idle then .idle else .ignored } ∧
    exec .resetRelease s = next { s with rstnLow := false } ∧
    (∀ t, exec .deviceReset s = next t →
      t.byp = false ∧ (∀ c, t.attn c = false) ∧ t.ringOutWord = none ∧ (∀ c, t.dataOut c = none) ∧
        ∃ u, exec .resetRelease t = next u ∧ u.byp = false ∧ (∀ c, u.attn c = false) ∧ u.ringOutWord = some .idle ∧
          ∀ c, u.dataOut c = none) ∧
    (∀ t, exec .deviceReset s = next t → t.HeldInReset) ∧
    (s.HeldInReset →
      (s.byp = false ∧ (∀ c, s.attn c = false) ∧ s.ringOutWord = none ∧ ∀ c, s.dataOut c = none) ∧
      (s.pending.head? ≠ some .resetRelease → ∃ t, step s = next t ∧ t.HeldInReset)) ∧
    (s.byp = true ↔ s.line.mode ≠ .bypassed) ∧ (∀ c, s.attn c = true ↔ (s.channel c).queue ≠ []) ∧
    ∀ (c : Instr) (ch : Channel), c.channel = some ch → s.rstnLow = true → exec c s = next s

/-! ### Records and frames -/

/-- Every well-formed command that a record carries is read back from the sixteen bytes of its record, with every argument
at every value its field admits, and bytes beyond the sixteenth change nothing (R146, R185, R186). -/
def Obligations.CommandRecordsRoundTrip : Prop :=
  ∀ (i : Instr) (ch : Channel) (bytes more : List Byte),
    i.wellFormed = true → i.channel = some ch → encodeRecord i = some bytes →
      bytes.length = 16 ∧ decodeRecord ch (bytes ++ more) = some i

/-- R179: at the rise of select a WRITE COMMAND is a command when 16 or more whole bytes followed the opcode, of which the
first 16 are the record; with fewer it is not taken, and the port-error flag alone changes. -/
def Obligations.WriteCommandTakesSixteenBytes : Prop :=
  (∀ (ch : Channel) (bytes : List Byte), 16 ≤ bytes.length →
    ∃ c, decodeTransaction ch (0x01 :: bytes) = some c ∧ decodeRecord ch (bytes.take 16) = some c) ∧
  ∀ (ch : Channel) (bytes : List Byte) (s : State), bytes.length < 16 → s.rstnLow = false →
    decodeTransaction ch (0x01 :: bytes) = some (.shortWriteCommand ch bytes.length) ∧
      exec (.shortWriteCommand ch bytes.length) s = next (s.modifyChannel ch ({ · with portError := true }))

/-- A frame written by its originator is intact on arrival and is read back field by field: a CLAIM whose objector is
present exactly when a mark is set, a RELEASE, a CENSUS of 1 to 64 entries with non-zero identities (R74 to R78, R189,
R190). -/
def Obligations.OriginatedFramesAreIntact : Prop :=
  ∀ f : Frame,
    (∀ tag m standing held yield objector, f.body = .claim tag m standing held yield objector →
      objector.isSome = (held || yield)) →
    (∀ members, f.body = .census members →
      1 ≤ members.length ∧ members.length ≤ 64 ∧ ∀ m ∈ members, m.identity ≠ 0) →
    ({ words := f.encode, violation := false, overlong := false, cutShort := false } : Arrival).judge = some f

/-- What a station forwards is intact for the next one, with the hop count one higher and the header otherwise as it came:
a CLAIM with the marks and the objector that the Lease Table left, never fewer than it had, a RELEASE unchanged, a CENSUS
with one entry more (R28, R33, R74, R83, R84). -/
def Obligations.ForwardedFramesAreIntact : Prop :=
  ∀ (ws : List Word) (f : Frame), parseFrame ws = some f → f.hop.toNat < 63 →
    (∀ tag m standing held yield objector held' yield' objector',
      f.body = .claim tag m standing held yield objector → (held = true → held' = true) →
      (yield = true → yield' = true) → (∀ n, objector = some n → objector' = some n) →
      objector'.isSome = (held' || yield') →
      parseFrame (forwardWords ws (claimChange held' yield' objector')) =
        some { f with hop := f.hop + 1, body := .claim tag m standing held' yield' objector' }) ∧
    (∀ tag, f.body = .release tag →
      parseFrame (forwardWords ws id) = some { f with hop := f.hop + 1, body := .release tag }) ∧
    (∀ members m, f.body = .census members → members.length < 64 → m.identity ≠ 0 →
      parseFrame (forwardWords ws (censusChange (members.length + 1) m)) =
        some { f with hop := f.hop + 1, body := .census (members ++ [m]) })

/-- Each of the faults of R78 makes a frame damaged: an indication of the Line Interface, a wrong CRC, an unknown kind, a
wrong length, a wrong entry count or a zero identity of a CENSUS, an objector without a mark or a mark without one. -/
def Obligations.DamageIsFound : Prop :=
  ∀ a : Arrival,
    (a.violation = true ∨ a.overlong = true ∨ a.cutShort = true → a.judge = none) ∧
    (a.words.getLast? ≠ some (crc16 a.words.dropLast) → a.judge = none) ∧
    (a.words.length < 5 → a.judge = none) ∧
    ∀ w0, a.words.head? = some w0 →
      (w0.extractLsb' 14 2 = 0b00 → a.judge = none) ∧
      (w0.extractLsb' 14 2 = 0b01 → a.words.length ≠ 6 → a.judge = none) ∧
      (w0.extractLsb' 14 2 = 0b10 → a.words.length ≠ 5 → a.judge = none) ∧
      (w0.extractLsb' 14 2 = 0b11 → a.words.length < 8 ∨ 197 < a.words.length ∨ a.words.length % 3 ≠ 2 →
        a.judge = none) ∧
      (∀ w3, w0.extractLsb' 14 2 = 0b11 → a.words[3]? = some w3 →
        3 * (w3.extractLsb' 0 7).toNat + 5 ≠ a.words.length → a.judge = none) ∧
      (∀ k, w0.extractLsb' 14 2 = 0b11 → 3 * k + 7 < a.words.length → a.words[3 * k + 5]? = some 0 →
        a.words[3 * k + 6]? = some 0 → a.judge = none) ∧
      (∀ w4, w0.extractLsb' 14 2 = 0b01 → a.words[4]? = some w4 →
        w4.getLsbD 6 ≠ (w4.getLsbD 10 || w4.getLsbD 9) → a.judge = none)

/-! ### Laws of every state -/

/-- The state after a device reset has every invariant that the statements below say each step keeps. -/
def Obligations.ResetMeetsTheInvariants : Prop :=
  State.reset.QueuesBounded ∧ State.reset.Exclusive ∧ State.reset.StationLine ∧ State.reset.QuotasFit ∧
    State.reset.QuotaHeld ∧ State.reset.WaitListsExact ∧ State.reset.SendListExact ∧ State.reset.DeferralExact ∧
    State.reset.AttachmentLaw ∧ State.reset.EntriesInRange ∧ State.reset.TransitBounded ∧ State.reset.RecordInRange ∧
    State.reset.SettingsInRange ∧ State.reset.LimitsInRange ∧ State.reset.TimersInRange

/-- An event queue never holds more than 24 records, and a deferral list is non-empty only while its queue holds 24 (R126,
R133). -/
def Obligations.StepKeepsQueuesBounded : Prop :=
  ∀ s t : State, s.QueuesBounded → step s = next t → t.QueuesBounded

/-- Two entries of the station stand active on one tag only as two SHARED holders: no HELD EXCLUSIVE entry beside a HELD
one, one claiming tenancy at most and none beside a HELD or RELEASING entry (R14, R15, R62). -/
def Obligations.StepKeepsTagsExclusive : Prop :=
  ∀ s t : State, s.Exclusive → step s = next t → t.Exclusive

/-- The station is OFFLINE exactly while the Line Interface is BYPASSED, leaving exactly while it is DRAINING, and in both
conditions no entry, list, timer, census or frame is under way (R92, R106, R121, R122; that no arrival waits in OFFLINE
and while leaving is the model's, log entry 9). -/
def Obligations.StepKeepsStationAndLineTogether : Prop :=
  ∀ s t : State, s.StationLine → step s = next t → t.StationLine

/-- No channel's non-FREE count exceeds its quota, and the quotas add up to at most 64 whenever the station is not OFFLINE
(R13, R175). -/
def Obligations.StepKeepsQuotas : Prop :=
  ∀ s t : State, s.StationLine ∧ s.QuotasFit ∧ s.QuotaHeld → step s = next t → t.StationLine ∧ t.QuotasFit ∧ t.QuotaHeld

/-- An entry is in a wait list exactly while it is QUEUED_LOCAL, and no list holds it twice (R16, R17). -/
def Obligations.StepKeepsWaitListsExact : Prop :=
  ∀ s t : State, s.WaitListsExact → step s = next t → t.WaitListsExact

/-- The send list holds one item for each frame that waits to be originated and nothing else (R26, R63, R86, R87, R109). -/
def Obligations.StepKeepsSendListExact : Prop :=
  ∀ s t : State, s.StationLine ∧ s.SendListExact → step s = next t → t.StationLine ∧ t.SendListExact

/-- An entry stands in its owner's deferral list exactly while its slot holds a notice, and a CLOSING entry always has one
(R9, R10, R133, R137, R141). -/
def Obligations.StepKeepsDeferralListsExact : Prop :=
  ∀ s t : State, s.DeferralExact → step s = next t → t.DeferralExact

/-- Attachment follows the state, and a channel has at most one attached entry per tag (R7, R8). -/
def Obligations.StepKeepsAttachment : Prop :=
  ∀ s t : State, s.AttachmentLaw → step s = next t → t.AttachmentLaw

/-- Every field stays in its range: of an entry the attempts made within the attempt limit, the term within the channel's max
term, the remaining term within the term (R2, R27, R168); of the station record the fault score, the circuit time, the losses
and the view (R105, R111, R114, R115); the settings (R166) and every channel's quota, ceiling and max term (R168); at most 512
words in the transit store (R96) and 197 in the receive store (R94). Every timer stays within its longest start: backoff and
circuit timers (R11, R38), join hold-off (R108), census interval and census circuit timer (R105), settle timer (R100), silence
timer (R93); and the transmitter's counts stay within the frame and the gap (R97, R98). -/
def Obligations.StepKeepsFieldsInRange : Prop :=
  ∀ s t : State,
    s.StationLine ∧ s.EntriesInRange ∧ s.TransitBounded ∧ s.RecordInRange ∧ s.SettingsInRange → step s = next t →
      t.StationLine ∧ t.EntriesInRange ∧ t.TransitBounded ∧ t.RecordInRange ∧ t.SettingsInRange ∧
        (s.LimitsInRange → t.LimitsInRange) ∧ (s.TimersInRange → t.TimersInRange)

/-- Because of the quotas, a channel below its quota always finds a FREE entry (R13, R175). -/
def Obligations.QuotaLeavesAFreeEntry : Prop :=
  ∀ (s : State) (ch : Channel), s.QuotaHeld → s.config.quotaSum ≤ 64 → s.nonFree ch < (s.limits ch).quota →
    ∃ i, s.LowestFree i

/-- The configuration changes only by a device reset, or by a command of channel 0 while the station is OFFLINE with leaving
clear (R164, R165, R176, R177). -/
def Obligations.ConfigurationIsFrozen : Prop :=
  ∀ (c : Instr) (s t : State), exec c s = next t → t.config ≠ s.config →
    c = .deviceReset ∨
      (s.station.state = .offline ∧ s.station.leaving = false ∧ c.channel = some 0 ∧ channelZeroOnly c ≠ none)

/-- The generation of an entry changes at two moments: at the opening of a tenancy, which takes the entry out of FREE by a
CLAIM, it goes up by one, 15 wrapping to 0; a device reset returns it to 0 (R4, R5). -/
def Obligations.GenerationsChangeOnlyAtOpening : Prop :=
  ∀ (c : Instr) (s t : State) (i : EntryIx), exec c s = next t →
    (t.entry i).generation = (s.entry i).generation ∧ (s.tenancy i = none → t.tenancy i = none) ∨
    (c = .deviceReset ∧ (t.entry i).generation = 0 ∧ t.tenancy i = none) ∨
    (∃ ch echo tag mode priority term limit, c = .claim ch echo tag mode priority term limit ∧ s.LowestFree i ∧
      (∃ u, t.tenancy i = some u ∧ u.owner = ch ∧ u.tag = tag ∧ u.attached = true) ∧
      (t.entry i).generation = (s.entry i).generation + 1)

/-! ### CLAIM -/

/-- The checks of CLAIM in their order: the first that fails gives the status, and the command changes nothing but the
result slot (R147, R151, R152, R171, R172). -/
def Obligations.ClaimIsRefusedByItsFirstFailingCheck : Prop :=
  ∀ (s : State) (ch : Channel) (echo : Byte) (tag : Tag) (mode priority : Byte) (term : Word) (limit : Byte) (m : Mode),
    s.rstnLow = false →
    (s.station.state ≠ .up ∨ s.station.leaving = true →
      exec (.claim ch echo tag mode priority term limit) s = next (s.answer ch 0x10 echo .notUp .nothing)) ∧
    (s.station.state = .up → s.station.leaving = false →
      (¬ ClaimInRange (s.limits ch) mode priority term limit →
        exec (.claim ch echo tag mode priority term limit) s = next (s.answer ch 0x10 echo .badArgument .nothing)) ∧
      (ClaimInRange (s.limits ch) mode priority term limit → ModeByte mode m →
        ((s.limits ch).ceiling < priority.toNat ∨ ¬ s.WindowAllows ch tag m →
          exec (.claim ch echo tag mode priority term limit) s = next (s.answer ch 0x10 echo .notPermitted .nothing)) ∧
        (priority.toNat ≤ (s.limits ch).ceiling → s.WindowAllows ch tag m →
          (s.AttachedOn ch tag →
            exec (.claim ch echo tag mode priority term limit) s =
              next (s.answer ch 0x10 echo .alreadyClaimed .nothing)) ∧
          (¬ s.AttachedOn ch tag → (s.limits ch).quota ≤ s.nonFree ch →
            exec (.claim ch echo tag mode priority term limit) s =
              next (s.answer ch 0x10 echo .quotaFull .nothing)))))

/-- Case 3: on a tag without waiters on which no entry is CLAIMING, BACKOFF, RELEASING or HELD, the new entry becomes
CLAIMING with its frame QUEUED and a claim item at the tail of the send list, and the result is ACCEPTED with the handle
(R3, R4, R6, R20, R151). -/
def Obligations.ClaimGoesToTheRing : Prop :=
  ∀ (s : State) (ch : Channel) (echo : Byte) (tag : Tag) (mode priority : Byte) (term : Word) (limit : Byte) (m : Mode)
    (i : EntryIx),
    s.rstnLow = false → s.ClaimPasses ch tag mode priority term limit m → s.LowestFree i → s.waitList tag = [] →
    ¬ s.Blocked tag → ¬ s.HeldOn tag →
      exec (.claim ch echo tag mode priority term limit) s =
        next (((s.openedAt i (opened ch tag m priority term limit (.claiming .queued false))).setSendList
          (s.frames.sendList ++ [.claim i])).answer ch 0x10 echo .accepted (.handle i ((s.entry i).generation + 1)))

/-- Cases 1 and 2: behind a waiter, a CLAIMING, BACKOFF or RELEASING entry, or a HELD entry it conflicts with, the new
entry becomes QUEUED_LOCAL at the tail of the wait list, and the result is QUEUED with the handle (R18, R19, R151). -/
def Obligations.ClaimWaits : Prop :=
  ∀ (s : State) (ch : Channel) (echo : Byte) (tag : Tag) (mode priority : Byte) (term : Word) (limit : Byte) (m : Mode)
    (i : EntryIx),
    s.rstnLow = false → s.ClaimPasses ch tag mode priority term limit m → s.LowestFree i →
    (s.waitList tag ≠ [] ∨ s.Blocked tag ∨ (s.HeldOn tag ∧ m = .exclusive) ∨ s.HeldExclusiveOn tag) →
      exec (.claim ch echo tag mode priority term limit) s =
        next (((s.openedAt i (opened ch tag m priority term limit .queuedLocal)).setWaiting
          (s.lease.waiting ++ [i])).answer ch 0x10 echo .queued (.handle i ((s.entry i).generation + 1)))

/-- Case 2, join: a SHARED claim on a tag held SHARED by every holder becomes HELD at once for its term, the result is
GRANTED_NOW with handle and term, and GRANTED without marks is raised to the channel: into its queue, or into the entry's
slot when the queue is full or items are deferred (R6, R19, R132, R151). -/
def Obligations.ClaimJoins : Prop :=
  ∀ (s : State) (ch : Channel) (echo : Byte) (tag : Tag) (mode priority : Byte) (term : Word) (limit : Byte)
    (i : EntryIx) (n : LeaseNotice),
    s.rstnLow = false → s.ClaimPasses ch tag mode priority term limit .shared → s.LowestFree i → s.waitList tag = [] →
    ¬ s.Blocked tag → s.HeldOn tag → ¬ s.HeldExclusiveOn tag →
    n = { kind := .granted .shared, timestamp := s.station.timestamp, index := i,
          generation := (s.entry i).generation + 1, tag := tag, marks := {} } →
    (s.RoomAt ch →
      exec (.claim ch echo tag mode priority term limit) s =
        next (((s.openedAt i (opened ch tag .shared priority term limit (.held term.toNat false))).modifyChannel ch
          fun c => { c with queue := c.queue ++ [.lease n] }).answer ch 0x10 echo .grantedNow
          (.granted i ((s.entry i).generation + 1) term.toNat))) ∧
    (¬ s.RoomAt ch →
      exec (.claim ch echo tag mode priority term limit) s =
        next (((s.openedAt i { opened ch tag .shared priority term limit (.held term.toNat false) with
            deferred := some n }).modifyChannel ch fun c => { c with deferral := c.deferral ++ [.entry i] }).answer ch 0x10
          echo .grantedNow (.granted i ((s.entry i).generation + 1) term.toNat)))

/-! ### Commands that carry a handle -/

/-- A handle that matches no entry of the commanding channel is answered BAD_HANDLE and one that names a detached entry
GONE, before any other check, and the command changes nothing but the result slot (R12, R147, R154). -/
def Obligations.BadAndGoneHandlesChangeNothing : Prop :=
  ∀ (s : State) (ch : Channel) (echo index generation : Byte) (term : Word), s.rstnLow = false →
    (s.HandleBad ch index generation →
      exec (.release ch echo index generation) s = next (s.answer ch 0x11 echo .badHandle .nothing) ∧
      exec (.renew ch echo index generation term) s = next (s.answer ch 0x12 echo .badHandle .nothing) ∧
      exec (.query ch echo index generation) s = next (s.answer ch 0x13 echo .badHandle .nothing)) ∧
    (s.HandleGone ch index generation →
      exec (.release ch echo index generation) s = next (s.answer ch 0x11 echo .gone .nothing) ∧
      exec (.renew ch echo index generation term) s = next (s.answer ch 0x12 echo .gone .nothing) ∧
      exec (.query ch echo index generation) s = next (s.answer ch 0x13 echo .gone .nothing))

/-- RELEASE of an entry that holds no lease, its deferred notice first discarded: a waiter goes FREE, its list examined
when it was the head; a claim not yet sent, a backoff and a CLOSING entry go FREE with their list examined; a claim in
flight is detached and stays CLAIMING. The result is OK with the state when taken (R8, R17, R67, R155; that a CLOSING
entry keeps its tag is the model's, log entry 20). -/
def Obligations.ReleaseOfAnEntryWithoutALease : Prop :=
  ∀ (s d : State) (ch : Channel) (echo index generation : Byte) (i : EntryIx) (t : Tenancy),
    s.rstnLow = false → s.Names ch index generation i t → d = s.discardDeferred i →
    (t.state = .queuedLocal →
      exec (.release ch echo index generation) s =
        next ((if (s.waitList t.tag).head? = some i then (d.freed i).examine t.tag else d.freed i).answer ch 0x11 echo .ok
          (.state .queuedLocal))) ∧
    (∀ lost, t.state = .claiming .queued lost →
      exec (.release ch echo index generation) s =
        next (((d.freed i).examine t.tag).answer ch 0x11 echo .ok (.state .claiming))) ∧
    (∀ serial circuit lost, t.state = .claiming (.inFlight serial circuit) lost →
      exec (.release ch echo index generation) s =
        next ((d.modifyTenancy i ({ · with attached := false })).answer ch 0x11 echo .ok (.state .claiming))) ∧
    (∀ timer, t.state = .backoff timer →
      exec (.release ch echo index generation) s =
        next (((d.freed i).examine t.tag).answer ch 0x11 echo .ok (.state .backoff))) ∧
    (t.state = .closing →
      exec (.release ch echo index generation) s =
        next (((d.freed i).examine t.tag).answer ch 0x11 echo .ok (.state .closing)))

/-- RELEASE of a HELD entry, its deferred notice first discarded, by the release procedure: beside another holder it goes
FREE; the last EXCLUSIVE holder without remote demand hands the tag on to the head of a non-empty wait list, which becomes
HELD for its own term with its flags clear, and GRANTED in its own mode with the handed-on mark is raised; any other last
holder becomes RELEASING with a release item while the Lease Table's station state is UP, and goes FREE without a frame in
DOWN and HALTED (R57 to R60, R67, R155). -/
def Obligations.ReleaseOfALease : Prop :=
  ∀ (s d : State) (ch : Channel) (echo index generation : Byte) (i : EntryIx) (t : Tenancy) (remaining : Nat)
    (demand : Bool),
    s.rstnLow = false → s.Names ch index generation i t → t.state = .held remaining demand → d = s.discardDeferred i →
    (¬ s.LastHolder i t.tag →
      exec (.release ch echo index generation) s =
        next (((d.freed i).examine t.tag).answer ch 0x11 echo .ok (.state .held))) ∧
    (∀ j rest w, s.LastHolder i t.tag → t.mode = .exclusive → demand = false → s.waitList t.tag = j :: rest →
      s.tenancy j = some w →
      exec (.release ch echo index generation) s =
        next ((((((d.freed i).setWaiting ((d.freed i).lease.waiting.filter (· ≠ j))).modifyTenancy j fun u =>
          { u with state := .held u.term false, contendedNotified := false, expiringNotified := false }).raiseLease j
          (.granted w.mode) { handedOn := true }).examine t.tag).answer ch 0x11 echo .ok (.state .held))) ∧
    (s.LastHolder i t.tag → t.mode = .shared ∨ demand = true ∨ s.waitList t.tag = [] →
      (s.lease.taken = .up →
        exec (.release ch echo index generation) s =
          next ((d.toTheRing i).answer ch 0x11 echo .ok (.state .held))) ∧
      (s.lease.taken ≠ .up →
        exec (.release ch echo index generation) s =
          next (((d.freed i).examine t.tag).answer ch 0x11 echo .ok (.state .held))))

/-- R55: the handle, then the term, then the state decide; OK replaces the term unless the argument is 0, sets the remaining
term from it and clears expiring notified, and leaves remote demand, contended notified and a deferred notice as they
were. -/
def Obligations.RenewRestartsTheTerm : Prop :=
  ∀ (s : State) (ch : Channel) (echo index generation : Byte) (term : Word), s.rstnLow = false →
    (s.HandleBad ch index generation →
      exec (.renew ch echo index generation term) s = next (s.answer ch 0x12 echo .badHandle .nothing)) ∧
    (s.HandleGone ch index generation →
      exec (.renew ch echo index generation term) s = next (s.answer ch 0x12 echo .gone .nothing)) ∧
    ∀ (i : EntryIx) (t : Tenancy), s.Names ch index generation i t →
      ((s.limits ch).maxTerm < term.toNat →
        exec (.renew ch echo index generation term) s = next (s.answer ch 0x12 echo .badArgument .nothing)) ∧
      (term.toNat ≤ (s.limits ch).maxTerm → (∀ remaining demand, t.state ≠ .held remaining demand) →
        exec (.renew ch echo index generation term) s =
          next (s.answer ch 0x12 echo .wrongState (.state t.state.name))) ∧
      (∀ remaining demand n, term.toNat ≤ (s.limits ch).maxTerm → t.state = .held remaining demand →
        n = (if term.toNat = 0 then t.term else term.toNat) →
        exec (.renew ch echo index generation term) s =
          next ((s.modifyTenancy i fun u =>
            { u with term := n, state := .held n demand, expiringNotified := false }).answer ch 0x12 echo .ok
            (.renewed n n)))

/-! ### The other commands of every channel -/

/-- The commands that report. QUERY reports the entry, with remaining term and remote demand in HELD alone; STATUS reports the
station record, the table's FREE entries and the channel's counts; MEMBERS reports one entry of the view, absent at or above
the member count, and answers an index above 63 BAD_ARGUMENT; a command code that is not known is answered UNKNOWN_COMMAND with
the record's own code and echo. None changes anything but the result slot (R147, R148, R157 to R159). The slot reads as 24
bytes: zeros when it is NONE, else command code, echo, status and the values of the command, each field at its bytes, most
significant byte first, with its code value; what a result does not carry reads 0 (R183 to R185, R187). -/
def Obligations.ReportsChangeOnlyTheResultSlot : Prop :=
  (∀ (s : State) (ch : Channel) (echo index generation code : Byte), s.rstnLow = false →
    (∀ i t, s.Names ch index generation i t →
      (∀ remaining demand, t.state = .held remaining demand →
        exec (.query ch echo index generation) s =
          next (s.answer ch 0x13 echo .ok (.query
            { state := .held, mode := t.mode, tag := t.tag, attempts := t.attempts, remaining := some remaining,
              remoteDemand := some demand, lastRefusal := t.lastRefusal }))) ∧
      ((∀ remaining demand, t.state ≠ .held remaining demand) →
        exec (.query ch echo index generation) s =
          next (s.answer ch 0x13 echo .ok (.query
            { state := t.state.name, mode := t.mode, tag := t.tag, attempts := t.attempts, remaining := none,
              remoteDemand := none, lastRefusal := t.lastRefusal })))) ∧
    exec (.status ch echo) s =
      next (s.answer ch 0x14 echo .ok (.status
        { station := s.station.state, number := s.config.settings.stationNumber, identity := s.identity,
          faultScore := s.station.faultScore, faultWarning := s.station.faultWarning,
          members := s.station.view.length, lastCircuit := s.station.lastCircuit, freeEntries := s.freeCount,
          nonFree := s.nonFree ch, quota := (s.limits ch).quota, queueCount := (s.channel ch).queue.length,
          timestamp := s.station.timestamp })) ∧
    (63 < index.toNat → exec (.members ch echo index) s = next (s.answer ch 0x15 echo .badArgument .nothing)) ∧
    (∀ m, index.toNat ≤ 63 → s.station.view[index.toNat]? = some m →
      exec (.members ch echo index) s =
        next (s.answer ch 0x15 echo .ok (.member index.toNat s.station.view.length (some m)))) ∧
    (index.toNat ≤ 63 → s.station.view.length ≤ index.toNat →
      exec (.members ch echo index) s =
        next (s.answer ch 0x15 echo .ok (.member index.toNat s.station.view.length none))) ∧
    (code ∉ knownCodes →
      exec (.unknownCommand ch code echo) s = next (s.answer ch code echo .unknownCommand .nothing))) ∧
  slotBytes none = List.replicate 24 0 ∧
  (∀ code echo status values,
    values.bytes.length ≤ 21 ∧
      slotBytes (some { code := code, echo := echo, status := status, values := values }) =
        code :: echo :: status.code :: (values.bytes ++ List.replicate (21 - values.bytes.length) 0)) ∧
  [Status.ok, .accepted, .queued, .grantedNow, .badHandle, .gone, .wrongState, .badArgument, .notPermitted, .notUp,
    .alreadyClaimed, .quotaFull, .unknownCommand].map Status.code =
    [0x01, 0x02, 0x03, 0x04, 0x10, 0x11, 0x12, 0x13, 0x14, 0x15, 0x16, 0x17, 0x18] ∧
  [StateName.queuedLocal, .claiming, .backoff, .held, .closing].map StateName.code = [0x01, 0x02, 0x03, 0x04, 0x06] ∧
  [StationState.offline, .joining, .up, .down, .halted].map StationState.code = [0x00, 0x01, 0x02, 0x03, 0x04] ∧
  [FailCause.held, .yield, .lost, .timeout].map FailCause.code = [0x01, 0x02, 0x03, 0x04] ∧
  [RoutingClass.ring, .membership, .faults].map RoutingClass.code = [0x01, 0x02, 0x03] ∧
  [Mode.shared, .exclusive].map Mode.code = [0x01, 0x02] ∧
  ResultValues.nothing.bytes = [] ∧
  (∀ (i : EntryIx) (g : BitVec 4), (ResultValues.handle i g).bytes = [BitVec.ofNat 8 i.val, g.setWidth 8]) ∧
  (∀ (i : EntryIx) (g : BitVec 4) term, (ResultValues.granted i g term).bytes =
    [BitVec.ofNat 8 i.val, g.setWidth 8, BitVec.ofNat 8 (term / 256), BitVec.ofNat 8 term]) ∧
  (∀ x : StateName, (ResultValues.state x).bytes = [x.code]) ∧
  (∀ term remaining, (ResultValues.renewed term remaining).bytes =
    [BitVec.ofNat 8 (term / 256), BitVec.ofNat 8 term, BitVec.ofNat 8 (remaining / 256), BitVec.ofNat 8 remaining]) ∧
  (∀ (q : QueryValues) (remaining : Nat) (flags cause objector : Byte),
    (∀ x, q.remaining = some x → remaining = x) → (q.remaining = none → remaining = 0) →
    (∀ x, q.lastRefusal = some x → cause = x.cause.code ∧ (x.objector = none → objector = 0) ∧
      ∀ n : StationNo, x.objector = some n → objector = 0x80 ||| n.setWidth 8) →
    (q.lastRefusal = none → cause = 0 ∧ objector = 0) →
    (flags.getLsbD 0 = q.remaining.isSome ∧ flags.getLsbD 1 = q.remoteDemand.isSome ∧
      flags.getLsbD 2 = decide (q.remoteDemand = some true) ∧ flags.getLsbD 3 = q.lastRefusal.isSome ∧
      flags.toNat < 16) →
    (ResultValues.query q).bytes =
      [q.state.code, q.mode.code, q.tag.extractLsb' 16 8, q.tag.extractLsb' 8 8, q.tag.extractLsb' 0 8,
       BitVec.ofNat 8 q.attempts, BitVec.ofNat 8 (remaining / 256), BitVec.ofNat 8 remaining, flags, cause, objector]) ∧
  (∀ v : StatusValues, (ResultValues.status v).bytes =
    [v.station.code, v.number.setWidth 8, v.identity.extractLsb' 24 8, v.identity.extractLsb' 16 8,
     v.identity.extractLsb' 8 8, v.identity.extractLsb' 0 8, BitVec.ofNat 8 v.faultScore,
     if v.faultWarning then 1 else 0, BitVec.ofNat 8 v.members, BitVec.ofNat 8 (v.lastCircuit / 65536),
     BitVec.ofNat 8 (v.lastCircuit / 256), BitVec.ofNat 8 v.lastCircuit, BitVec.ofNat 8 v.freeEntries,
     BitVec.ofNat 8 v.nonFree, BitVec.ofNat 8 v.quota, BitVec.ofNat 8 v.queueCount, v.timestamp.extractLsb' 24 8,
     v.timestamp.extractLsb' 16 8, v.timestamp.extractLsb' 8 8, v.timestamp.extractLsb' 0 8]) ∧
  (∀ index count (m : Member),
    (ResultValues.member index count none).bytes = [BitVec.ofNat 8 index, BitVec.ofNat 8 count, 0] ∧
    (ResultValues.member index count (some m)).bytes =
      [BitVec.ofNat 8 index, BitVec.ofNat 8 count, 1, m.number.setWidth 8, m.identity.extractLsb' 24 8,
       m.identity.extractLsb' 16 8, m.identity.extractLsb' 8 8, m.identity.extractLsb' 0 8]) ∧
  (∀ (target issuing : Channel) (freed after : Nat),
    (ResultValues.reset target issuing freed after).bytes =
      [BitVec.ofNat 8 target.val, BitVec.ofNat 8 issuing.val, BitVec.ofNat 8 freed, BitVec.ofNat 8 after] ∧
    (ResultValues.left freed).bytes = [BitVec.ofNat 8 freed]) ∧
  (∀ x : Settings, (ResultValues.settings x).bytes =
    [x.stationNumber.setWidth 8, BitVec.ofNat 8 x.ringLimit, BitVec.ofNat 8 x.circuitTimeout,
     BitVec.ofNat 8 x.retryInterval, BitVec.ofNat 8 (x.censusInterval / 256), BitVec.ofNat 8 x.censusInterval,
     BitVec.ofNat 8 x.warningMargin]) ∧
  (∀ (c : Channel) (l : Limits), (ResultValues.limits c l).bytes =
    [BitVec.ofNat 8 c.val, BitVec.ofNat 8 l.quota, BitVec.ofNat 8 l.ceiling, BitVec.ofNat 8 (l.maxTerm / 256),
     BitVec.ofNat 8 l.maxTerm]) ∧
  (∀ (c : Channel) (k : WindowIx) (w : Window), (ResultValues.window c k w).bytes =
    [BitVec.ofNat 8 c.val, BitVec.ofNat 8 k.val, w.value.extractLsb' 16 8, w.value.extractLsb' 8 8,
     w.value.extractLsb' 0 8, w.mask.extractLsb' 16 8, w.mask.extractLsb' 8 8, w.mask.extractLsb' 0 8,
     windowFlags w.enabled w.sharedRight w.exclusiveRight]) ∧
  ∀ (x : RoutingClass) (c : Channel), (ResultValues.route x c).bytes = [x.code, BitVec.ofNat 8 c.val]

/-- A channel reset, by the channel itself or by channel 0 with a target, completes in every station state; RELEASING entries are
detached before it, as StepKeepsAttachment has them. It empties the channel's event state. Its entry in flight is detached and
stays CLAIMING, its RELEASING entry stays as it was; each HELD entry leaves HELD by the release procedure: as the last holder
with the table in UP and nothing to hand on to it becomes RELEASING with a release item at the tail of the send list, else it is
FREE; every other entry of the channel is FREE. Then each tag on which an entry changed is examined once, in ascending order of
tag value; where the last EXCLUSIVE holder without remote demand left a list with an entry of another channel, its head is first
made HELD for its own term and GRANTED with the handed-on mark. An entry of another channel that does not wait is untouched, and
the generations, the port-error flags, the station, the line and the configuration stay. The result carries the counts, on
channel 0 and on the target when channel 0 named one; a target above 3 is answered BAD_ARGUMENT (R21, R57 to R60, R71, R142,
R160, R161; that a hand-on is made when the turn of its tag's examination comes is the model's, log entry 18). -/
def Obligations.ChannelResetClearsTheChannel : Prop :=
  (∀ (s : State) (ch : Channel) (echo target : Byte), s.rstnLow = false → s.AttachmentLaw →
    (∃ t r, exec (.resetChannel ch echo) s = next t ∧ t.ChannelCleared ch ∧ s.ResetActsOn ch t ∧ s.ResetExamines ch r ∧
      t = r.answer ch 0x16 echo .ok (.reset ch ch (s.nonFree ch - t.nonFree ch) (t.nonFree ch)) ∧
      (t.channel ch).slot = some ⟨0x16, echo, .ok, .reset ch ch (s.nonFree ch - t.nonFree ch) (t.nonFree ch)⟩ ∧
      ∀ d, d ≠ ch → (t.channel d).slot = (s.channel d).slot) ∧
    (∀ n : Channel, target.toNat = n.val →
      ∃ t r, exec (.resetChannelN 0 echo target) s = next t ∧ t.ChannelCleared n ∧ s.ResetActsOn n t ∧ s.ResetExamines n r ∧
        t = (r.answer 0 0x26 echo .ok (.reset n 0 (s.nonFree n - t.nonFree n) (t.nonFree n))).answer n 0x26 echo .ok
          (.reset n 0 (s.nonFree n - t.nonFree n) (t.nonFree n)) ∧
        (t.channel 0).slot = some ⟨0x26, echo, .ok, .reset n 0 (s.nonFree n - t.nonFree n) (t.nonFree n)⟩ ∧
        (t.channel n).slot = some ⟨0x26, echo, .ok, .reset n 0 (s.nonFree n - t.nonFree n) (t.nonFree n)⟩ ∧
        ∀ d, d ≠ 0 → d ≠ n → (t.channel d).slot = (s.channel d).slot) ∧
    (3 < target.toNat →
      exec (.resetChannelN 0 echo target) s = next (s.answer 0 0x26 echo .badArgument .nothing))) ∧
  ∀ (x : State) (tag : Tag),
    (x.waitList tag = [] → x.handOn tag = x) ∧
    ∀ j rest w, x.waitList tag = j :: rest → x.tenancy j = some w →
      x.handOn tag =
        ((x.setWaiting (x.lease.waiting.filter (· ≠ j))).modifyTenancy j fun u =>
          { u with state := .held u.term false, contendedNotified := false, expiringNotified := false }).raiseLease j
          (.granted w.mode) { handedOn := true }

/-! ### The commands of channel 0 -/

/-- The commands of channel 0 are refused: on another channel with NOT_PERMITTED, before any other check and in every
state; on channel 0 with WRONG_STATE, for LEAVE in OFFLINE or while leaving, for START and the configuration commands in
every state but OFFLINE with leaving clear. A refused command changes nothing but the result slot (R147, R150, R163, R164,
R177). -/
def Obligations.CommandsOfChannelZeroAreRefused : Prop :=
  ∀ (s : State) (c : Instr) (ch : Channel) (code echo : Byte),
    s.rstnLow = false → channelZeroOnly c = some (ch, code, echo) →
    (ch ≠ 0 → exec c s = next (s.answer ch code echo .notPermitted .nothing)) ∧
    (ch = 0 → code = 0x25 → s.station.state = .offline ∨ s.station.leaving = true →
      exec c s = next (s.answer 0 code echo .wrongState .nothing)) ∧
    (ch = 0 → code ≠ 0x25 → code ≠ 0x26 → s.station.state ≠ .offline ∨ s.station.leaving = true →
      exec c s = next (s.answer 0 code echo .wrongState .nothing))

/-- START in OFFLINE: with the settings in range and the quotas within 64 the station becomes JOINING with the items of its
record that START sets, RING_STATE with cause STARTED and timestamp 0 is raised, and the Line Interface enters SETTLING for
5000 us; otherwise it is answered BAD_ARGUMENT with no effect (R100, R105, R107, R163, R175; that the Lease Table's view of the
station state is JOINING with it, setTaken .joining, is the model's, log entry 11). -/
def Obligations.StartBeginsJoining : Prop :=
  ∀ (s : State) (echo : Byte),
    s.rstnLow = false → s.station.state = .offline → s.station.leaving = false →
    (s.SettingsInRange → s.config.quotaSum ≤ 64 →
      exec (.start 0 echo) s =
        next (((((s.modifyStation fun r =>
          { r with state := .joining, faultScore := 0, faultWarning := false, timestamp := 0, census := .none,
                   censusLosses := 0, awaitsUpstream := false, lastCircuit := 0, holdOff := none,
                   interval := none }).raiseStation .ring (.ringState 0 .started .joining none)).setTaken
          .joining).modifyLine ({ · with mode := .settling 5000 })).answer 0 0x24 echo .ok .nothing)) ∧
    (¬ s.SettingsInRange ∨ 64 < s.config.quotaSum →
      exec (.start 0 echo) s = next (s.answer 0 0x24 echo .badArgument .nothing))

/-- A LEAVE that is taken comes after the frames that were completed before it, which are judged first (R104; that they wait in a
list is the model's, log entries 8 and 9). It frees every entry without a notice, keeping the generations, empties the wait
lists, the send list, the view and the transit store, stops the timers and the census, keeps fault score, warning, last circuit
time, timestamp, serial counter and configuration, and discards every deferred notice. VOID on each channel and RING_STATE on
the routed one are the only records it raises: they join the queue where there is room, else the set of the summary marker.
With a frame on ring-out in INSERTED the station drains; else the bypass closes at once and it is OFFLINE. The result counts the
entries made FREE (R3, R50, R102, R104, R121, R122, R131, R136, R143, R163). -/
def Obligations.LeaveFreesEveryEntry : Prop :=
  ∀ (s : State) (echo : Byte),
    s.rstnLow = false → s.station.state ≠ .offline → s.station.leaving = false →
    s.line.mode = .inserted ∨ (∃ timer, s.line.mode = .settling timer) →
    (s.frames.arrivals ≠ [] →
      ∃ s', exec .frameArrival s = next s' ∧ exec (.leave 0 echo) s = exec (.leave 0 echo) s' ∧
        s'.frames.arrivals = s.frames.arrivals.tail ∧ s'.rstnLow = false ∧ s'.station.state ≠ .offline ∧
        s'.station.leaving = false ∧ s'.line.mode = s.line.mode) ∧
    (s.frames.arrivals = [] → ∃ t, exec (.leave 0 echo) s = next t ∧
      (∀ i, t.entry i = { generation := (s.entry i).generation, tenancy := none }) ∧ t.lease.waiting = [] ∧
      t.frames.sendList = [] ∧ t.frames.arrivals = [] ∧ t.frames.serial = s.frames.serial ∧ t.config = s.config ∧
      t.line.transit = [] ∧ t.line.receiver = .between ∧ t.line.detector = .silent ∧
      t.line.transmitter = s.line.transmitter ∧
      (s.line.mode = .inserted → (∃ ws sent, s.line.transmitter = .sending ws sent) →
        t.line.mode = .draining ∧
        t.station = { s.station with
          leaving := true, holdOff := none, interval := none, census := .none, censusLosses := 0,
          awaitsUpstream := false, view := [] }) ∧
      ((∀ ws sent, s.line.mode = .inserted → s.line.transmitter ≠ .sending ws sent) →
        t.line.mode = .bypassed ∧
        t.station = { s.station with
          state := .offline, leaving := false, holdOff := none, interval := none, census := .none, censusLosses := 0,
          awaitsUpstream := false, view := [] }) ∧
      (t.channel 0).slot = some ⟨0x25, echo, .ok, .left (64 - s.freeCount)⟩ ∧
      (∀ c, c ≠ 0 → (t.channel c).slot = (s.channel c).slot) ∧
      (∀ c, (t.channel c).portError = (s.channel c).portError ∧ (t.channel c).readCopy = (s.channel c).readCopy) ∧
      (∀ c i, .entry i ∉ (t.channel c).deferral) ∧
      ∀ (c : Channel) (queue : List EventRecord) (markers : List DeferralItem) (routed : Bool),
        queue = (s.channel c).queue → markers = (s.channel c).deferral.filter DeferralItem.isMarker →
        routed = decide (c = s.config.routing.ring) →
        (markers = [] → queue.length < 24 → routed = false →
          (t.channel c).queue = queue ++ [.void s.station.timestamp] ∧ (t.channel c).deferral = []) ∧
        (markers = [] → queue.length < 23 → routed = true →
          (t.channel c).queue = queue ++ [.void s.station.timestamp, .ringState s.station.timestamp .left .offline none] ∧
          (t.channel c).deferral = []) ∧
        (markers = [] → queue.length = 23 → routed = true →
          (t.channel c).queue = queue ++ [.void s.station.timestamp] ∧
          (t.channel c).deferral = [.marker { ring := true }]) ∧
        (markers = [] → 24 ≤ queue.length →
          (t.channel c).queue = queue ∧ (t.channel c).deferral = [.marker { ring := routed, void := true }]) ∧
        (markers ≠ [] →
          (t.channel c).queue = queue ∧
          (t.channel c).deferral = markers.map fun x =>
            match x with
            | .marker set => .marker { set with ring := set.ring || routed, void := true }
            | .entry i => .entry i))

/-- R167: CONFIGURE STATION on channel 0 in OFFLINE with leaving clear writes all six settings, the census interval as ten
times its argument, and reports them; an argument out of range is answered BAD_ARGUMENT and writes nothing; in any other
state, or while leaving, it is answered WRONG_STATE and writes nothing; on another channel NOT_PERMITTED, before these checks. -/
def Obligations.ConfigureStationWritesSixSettings : Prop :=
  ∀ (s : State) (echo number ringLimit circuitTimeout retryInterval steps margin : Byte) (x : Settings),
    s.rstnLow = false →
    x = { stationNumber := number.setWidth 6, ringLimit := ringLimit.toNat, circuitTimeout := circuitTimeout.toNat,
          retryInterval := retryInterval.toNat, censusInterval := 10 * steps.toNat, warningMargin := margin.toNat } →
    (s.station.state = .offline → s.station.leaving = false →
      number.toNat ≤ 63 ∧ 2 ≤ ringLimit.toNat ∧ ringLimit.toNat ≤ 64 ∧ 1 ≤ circuitTimeout.toNat ∧
        1 ≤ retryInterval.toNat ∧ 1 ≤ steps.toNat →
      exec (.configureStation 0 echo number ringLimit circuitTimeout retryInterval steps margin) s =
        next ((s.modifyConfig ({ · with settings := x })).answer 0 0x20 echo .ok (.settings x))) ∧
    (s.station.state = .offline → s.station.leaving = false →
      63 < number.toNat ∨ ringLimit.toNat < 2 ∨ 64 < ringLimit.toNat ∨ circuitTimeout.toNat = 0 ∨
        retryInterval.toNat = 0 ∨ steps.toNat = 0 →
      exec (.configureStation 0 echo number ringLimit circuitTimeout retryInterval steps margin) s =
        next (s.answer 0 0x20 echo .badArgument .nothing)) ∧
    (s.station.state ≠ .offline ∨ s.station.leaving = true →
      exec (.configureStation 0 echo number ringLimit circuitTimeout retryInterval steps margin) s =
        next (s.answer 0 0x20 echo .wrongState .nothing)) ∧
    ∀ ch, ch ≠ 0 →
      exec (.configureStation ch echo number ringLimit circuitTimeout retryInterval steps margin) s =
        next (s.answer ch 0x20 echo .notPermitted .nothing)

/-- SET CHANNEL LIMITS, SET WINDOW and SET ROUTE on channel 0 in OFFLINE with leaving clear: in range they write the limits
of the target channel, the five items of the named window or the channel of the class, and nothing else, and report what
they wrote; out of range they are answered BAD_ARGUMENT and write nothing (R169, R173, R174). -/
def Obligations.LimitsWindowsAndRoutesAreWritten : Prop :=
  ∀ (s : State) (echo target : Byte), s.rstnLow = false → s.station.state = .offline → s.station.leaving = false →
    (∀ (quota ceiling : Byte) (maxTerm : Word) (l : Limits),
      l = { quota := quota.toNat, ceiling := ceiling.toNat, maxTerm := maxTerm.toNat } →
      (∀ c : Channel, target.toNat = c.val → quota.toNat ≤ 64 → ceiling.toNat ≤ 7 → 1 ≤ maxTerm.toNat →
        exec (.setChannelLimits 0 echo target quota ceiling maxTerm) s =
          next ((s.modifyConfig fun x => { x with limits := x.limits.set c.val l c.isLt }).answer 0 0x21 echo .ok
            (.limits c l))) ∧
      (3 < target.toNat ∨ 64 < quota.toNat ∨ 7 < ceiling.toNat ∨ maxTerm.toNat = 0 →
        exec (.setChannelLimits 0 echo target quota ceiling maxTerm) s =
          next (s.answer 0 0x21 echo .badArgument .nothing))) ∧
    (∀ (window : Byte) (w : Window),
      (∀ (c : Channel) (k : WindowIx), target.toNat = c.val → window.toNat = k.val →
        exec (.setWindow 0 echo target window w.value w.mask w.enabled w.sharedRight w.exclusiveRight) s =
          next ((s.modifyConfig fun x =>
            { x with windows := x.windows.set c.val ((s.windows c).set k.val w k.isLt) c.isLt }).answer 0 0x22 echo .ok
            (.window c k w))) ∧
      (3 < target.toNat ∨ 3 < window.toNat →
        exec (.setWindow 0 echo target window w.value w.mask w.enabled w.sharedRight w.exclusiveRight) s =
          next (s.answer 0 0x22 echo .badArgument .nothing))) ∧
    (∀ (code : Byte) (c : Channel), target.toNat = c.val →
      (code = 0x01 → exec (.setRoute 0 echo code target) s =
        next ((s.modifyConfig fun x => { x with routing := { x.routing with ring := c } }).answer 0 0x23 echo .ok
          (.route .ring c))) ∧
      (code = 0x02 → exec (.setRoute 0 echo code target) s =
        next ((s.modifyConfig fun x => { x with routing := { x.routing with membership := c } }).answer 0 0x23 echo .ok
          (.route .membership c))) ∧
      (code = 0x03 → exec (.setRoute 0 echo code target) s =
        next ((s.modifyConfig fun x => { x with routing := { x.routing with faults := c } }).answer 0 0x23 echo .ok
          (.route .faults c)))) ∧
    (∀ code : Byte, 3 < target.toNat ∨ code ∉ [0x01, 0x02, 0x03] →
      exec (.setRoute 0 echo code target) s = next (s.answer 0 0x23 echo .badArgument .nothing))

/-! ### Ports and the Event Block -/

/-- The port-error flag: a short WRITE COMMAND and an unknown opcode set it, a flag already set stays set; READ ATTENTION copies
queue count, deferral list and flag to the port and clears the flag (R146, R179 to R181). At the pins of a port (R178): a
transaction begins at the fall of select, unless RSTn is low; each byte counts with its eighth bit, most significant bit first;
at opcode decode READ RESULT copies the slot and the other opcodes but WRITE COMMAND put their event into the queue; at the rise
of select a WRITE COMMAND of 16 or more bytes is a command, of fewer a short one, a byte that is not whole is discarded, and
nothing else happens. Data-out reads 0x00 in the opcode, in a WRITE COMMAND and past the data, else the copy byte by byte, and is
at high impedance without a transaction and while RSTn is low (R182; that the port copy stands in State and a select that is
ignored leaves data-out at high impedance is the model's, log entries 16 and 25). -/
def Obligations.PortErrorFlagIsSetAndRead : Prop :=
  (∀ (s : State) (ch : Channel), s.rstnLow = false →
    (∀ received, exec (.shortWriteCommand ch received) s = next (s.modifyChannel ch ({ · with portError := true }))) ∧
    (∀ opcode, opcode ∉ knownOpcodes →
      decodeTransaction ch [opcode] = some (.unknownOpcode ch opcode) ∧
      exec (.unknownOpcode ch opcode) s =
        next (s.modifyChannel ch ({ · with portError := true, readCopy := .zeros }))) ∧
    exec (.readAttention ch) s =
      next (s.modifyChannel ch fun c =>
        { c with portError := false
                 readCopy := .attention c.queue.length (decide (c.deferral ≠ [])) c.portError })) ∧
  (∀ (s : State) (ch : Channel),
    (s.port ch = .idle →
      s.selectFalls ch = s.setPort ch (if s.rstnLow = true then .ignored else .active .opcode [])) ∧
    (s.port ch ≠ .idle → s.selectFalls ch = s) ∧
    (s.port ch = .idle ∨ s.port ch = .ignored →
      (∀ sdi, s.clockBit ch sdi = s) ∧ s.selectRises ch = s.setPort ch .idle ∧ s.dataOut ch = none) ∧
    (s.rstnLow = true → s.dataOut ch = none) ∧
    ∀ phase, s.port ch = .active phase [] →
      (∀ b : Byte, (List.range 8).foldl (fun x k => x.clockBit ch (b.getMsbD k)) s = s.byteReceived ch phase b) ∧
      (∀ (b : Byte) (n : Nat), n < 8 →
        ∃ t, t = (List.range n).foldl (fun x k => x.clockBit ch (b.getMsbD k)) s ∧
          (s.rstnLow = false → t.dataOut ch = some ((s.outByte ch phase).getMsbD n)) ∧
          (phase = .opcode ∨ (∃ sent, phase = .shifting sent) → t.selectRises ch = s.setPort ch .idle) ∧
          ∀ bytes, phase = .writing bytes →
            (∀ c, 16 ≤ bytes.length → decodeRecord ch (bytes.take 16) = some c →
              t.selectRises ch = ({ s with pending := s.pending ++ [c] } : State).setPort ch .idle) ∧
            (bytes.length < 16 →
              t.selectRises ch =
                ({ s with pending := s.pending ++ [Instr.shortWriteCommand ch bytes.length] } : State).setPort ch .idle))) ∧
  (∀ (s : State) (ch : Channel) (b : Byte),
    s.byteReceived ch .opcode 0x01 = s.setPort ch (.active (.writing []) []) ∧
    s.byteReceived ch .opcode 0x02 =
      (s.modifyChannel ch fun c => { c with readCopy := .result c.slot }).setPort ch (.active (.shifting 0) []) ∧
    s.byteReceived ch .opcode 0x03 =
      ({ s with pending := s.pending ++ [Instr.readEvent ch] } : State).setPort ch (.active (.shifting 0) []) ∧
    s.byteReceived ch .opcode 0x04 =
      ({ s with pending := s.pending ++ [Instr.readAttention ch] } : State).setPort ch (.active (.shifting 0) []) ∧
    (b ∉ knownOpcodes →
      s.byteReceived ch .opcode b =
        ({ s with pending := s.pending ++ [Instr.unknownOpcode ch b] } : State).setPort ch (.active (.shifting 0) [])) ∧
    (∀ bytes, s.byteReceived ch (.writing bytes) b = s.setPort ch (.active (.writing (bytes ++ [b])) [])) ∧
    (∀ sent, s.byteReceived ch (.shifting sent) b = s.setPort ch (.active (.shifting (sent + 1)) [])) ∧
    s.outByte ch .opcode = 0 ∧ (∀ bytes, s.outByte ch (.writing bytes) = 0) ∧
    ∀ sent, s.outByte ch (.shifting sent) = ((s.channel ch).readCopy.bytes[sent]?).getD 0) ∧
  ReadCopy.zeros.bytes = [] ∧ (∀ slot, (ReadCopy.result slot).bytes = slotBytes slot) ∧
  (∀ r, (ReadCopy.event r).bytes = r.bytes) ∧
  ∀ count deferral portError, (ReadCopy.attention count deferral portError).bytes =
    [BitVec.ofNat 8 count, (if deferral then 1 else 0) + (if portError then 2 else 0)]

/-- READ EVENT hands the head record to the port and brings the oldest deferred item to the tail of the queue: an entry's
notice as its slot holds it, the slot emptied and a CLOSING entry made FREE with its list examined, or a STATION_SUMMARY
with the present values. From an empty queue the port is handed EMPTY and nothing else changes (R10, R135, R137 to R139;
that the copy stays in the port is the model's, log entry 16). A record reads as 16 bytes: kind, class, timestamp, and the
fields of its kind, each at its byte with its code value, the rest 0 (R183 to R185, R188). -/
def Obligations.ReadEventDeliversTheHead : Prop :=
  (∀ (s : State) (ch : Channel), s.rstnLow = false →
    ((s.channel ch).queue = [] →
      exec (.readEvent ch) s = next (s.modifyChannel ch ({ · with readCopy := .event (.empty s.station.timestamp) }))) ∧
    ∀ r rest, (s.channel ch).queue = r :: rest →
      ((s.channel ch).deferral = [] →
        exec (.readEvent ch) s = next (s.modifyChannel ch ({ · with queue := rest, readCopy := .event r }))) ∧
      (∀ set items, (s.channel ch).deferral = .marker set :: items →
        exec (.readEvent ch) s =
          next (s.modifyChannel ch ({ · with
            queue := rest ++
              [.stationSummary s.station.timestamp s.station.view.length s.station.faultScore s.station.faultWarning set]
            deferral := items
            readCopy := .event r }))) ∧
      (∀ i items t n d, (s.channel ch).deferral = .entry i :: items → s.tenancy i = some t → t.deferred = some n →
        d = (s.modifyChannel ch ({ · with queue := rest ++ [.lease n], deferral := items, readCopy := .event r
            })).modifyTenancy i ({ · with deferred := none }) →
        (t.state ≠ .closing → exec (.readEvent ch) s = next d) ∧
        (t.state = .closing → exec (.readEvent ch) s = next ((d.freed i).examine t.tag)))) ∧
  [DenyCause.held, .yield, .lost, .timeout, .ringDown, .halted].map DenyCause.code =
    [0x01, 0x02, 0x03, 0x04, 0x05, 0x06] ∧
  [RingCause.left, .started, .joined, .silence, .censusLost, .faults, .recovered, .duplicate].map RingCause.code =
    [0x07, 0x08, 0x09, 0x0A, 0x0B, 0x0C, 0x0D, 0x0E] ∧
  (∀ (n : LeaseNotice) (kind b12 b13 b14 : Byte),
    (∀ m, n.kind = .granted m → kind = 0x01 ∧ b12 = m.code ∧ b13 = 0 ∧ b14 = 0) →
    (∀ x : StationNo, n.kind = .contended x → kind = 0x02 ∧ b12 = x.setWidth 8 ∧ b13 = 0 ∧ b14 = 0) →
    (∀ ms, n.kind = .expiring ms → kind = 0x03 ∧ b12 = BitVec.ofNat 8 ms ∧ b13 = 0 ∧ b14 = 0) →
    (∀ cause objector attempts, n.kind = .denied cause objector attempts →
      kind = 0x04 ∧ b12 = cause.code ∧ b14 = BitVec.ofNat 8 attempts ∧ (objector = none → b13 = 0) ∧
        ∀ x : StationNo, objector = some x → b13 = 0x80 ||| x.setWidth 8) →
    (n.kind = .expired → kind = 0x05 ∧ b12 = 0 ∧ b13 = 0 ∧ b14 = 0) →
    (EventRecord.lease n).bytes =
      [kind, 0x00, n.timestamp.extractLsb' 24 8, n.timestamp.extractLsb' 16 8, n.timestamp.extractLsb' 8 8,
       n.timestamp.extractLsb' 0 8, BitVec.ofNat 8 n.index.val, n.generation.setWidth 8, n.tag.extractLsb' 16 8,
       n.tag.extractLsb' 8 8, n.tag.extractLsb' 0 8,
       (if n.marks.contended then 1 else 0) + (if n.marks.expiring then 2 else 0) +
         (if n.marks.handedOn then 4 else 0) + (if n.marks.granted then 8 else 0), b12, b13, b14, 0]) ∧
  ∀ (t : BitVec 32) (head : Byte → Byte → List Byte),
    head = (fun kind cls => [kind, cls, t.extractLsb' 24 8, t.extractLsb' 16 8, t.extractLsb' 8 8, t.extractLsb' 0 8]) →
    (EventRecord.void t).bytes = head 0x06 0x00 ++ [0, 0, 0, 0, 0, 0, 0x07, 0, 0, 0] ∧
    (EventRecord.empty t).bytes = head 0x00 0x01 ++ List.replicate 10 0 ∧
    (∀ cause x, (EventRecord.ringState t cause x none).bytes =
      head 0x10 0x01 ++ [cause.code, x.code, 0, 0, 0, 0, 0, 0, 0, 0]) ∧
    (∀ cause x (n : StationNo), (EventRecord.ringState t cause x (some n)).bytes =
      head 0x10 0x01 ++ [cause.code, x.code, 0x80 ||| n.setWidth 8, 0, 0, 0, 0, 0, 0, 0]) ∧
    (∀ count, (EventRecord.membership t count).bytes =
      head 0x11 0x01 ++ [0, 0, 0, BitVec.ofNat 8 count, 0, 0, 0, 0, 0, 0]) ∧
    (∀ score raised, (EventRecord.faultWarning t score raised).bytes =
      head 0x12 0x01 ++ [0, 0, 0, 0, BitVec.ofNat 8 score, if raised then 1 else 0, 0, 0, 0, 0]) ∧
    ∀ count score warning (x : Suppressed), (EventRecord.stationSummary t count score warning x).bytes =
      head 0x13 0x01 ++
        [0, 0, 0, BitVec.ofNat 8 count, BitVec.ofNat 8 score, if warning then 1 else 0,
         (if x.ring then 1 else 0) + (if x.membership then 2 else 0) + (if x.faults then 4 else 0) +
           (if x.void then 8 else 0), 0, 0, 0]

/-- A lease notice raised to an entry's owner carries the entry's handle and tag and the present timestamp. It joins the
owner's queue where there is room; else it waits in the entry's slot, placing the entry at the tail of the deferral list
when the slot was empty, and combining with the notice held there otherwise: a terminal notice stays; a terminal one replaces
another and takes its marks over, with the granted mark for a GRANTED; else the held one takes the mark of the arriving kind
(R128, R129, R132, R134; that a queue of 24 records defers also a notice raised after a READ EVENT has emptied the deferral list
is the model's choice, log entry 26). -/
def Obligations.LeaseNoticeIsQueuedOrDeferred : Prop :=
  ∀ (s : State) (i : EntryIx) (t : Tenancy) (kind : LeaseKind) (marks : Marks) (n : LeaseNotice),
    s.tenancy i = some t →
    n = { kind := kind, timestamp := s.station.timestamp, index := i, generation := (s.entry i).generation, tag := t.tag,
          marks := marks } →
    (s.RoomAt t.owner →
      s.raiseLease i kind marks = s.modifyChannel t.owner fun c => { c with queue := c.queue ++ [.lease n] }) ∧
    (¬ s.RoomAt t.owner → t.deferred = none →
      s.raiseLease i kind marks =
        (s.modifyTenancy i ({ · with deferred := some n })).modifyChannel t.owner
          fun c => { c with deferral := c.deferral ++ [.entry i] }) ∧
    ∀ held, ¬ s.RoomAt t.owner → t.deferred = some held →
      ∃ r, s.raiseLease i kind marks = s.modifyTenancy i ({ · with deferred := some r }) ∧
        (held.kind.terminal = true → r = held) ∧
        (held.kind.terminal = false → kind.terminal = true →
          r = { n with
            marks := {
              contended := marks.contended || held.marks.contended
              expiring := marks.expiring || held.marks.expiring
              handedOn := marks.handedOn || held.marks.handedOn
              granted := marks.granted || held.marks.granted || held.kind.isGranted } }) ∧
        (held.kind.terminal = false →
          (∀ m, kind = .granted m → r = { held with marks := { held.marks with granted := true } }) ∧
          (∀ station, kind = .contended station → r = { held with marks := { held.marks with contended := true } }) ∧
          ∀ ms, kind = .expiring ms → r = { held with marks := { held.marks with expiring := true } })

/-- A station event is raised to the channel that the routing table names for its class, and VOID to the channel given. It
joins the queue where there is room; else its class joins the set of the summary marker, which joins the tail of the deferral
list when the channel has none, and the record is not kept (R131, R136, R137). -/
def Obligations.StationEventIsQueuedOrSuppressed : Prop :=
  ∀ (s : State) (cls : RoutingClass) (r : EventRecord) (ch : Channel),
    (s.RoomAt (s.config.routing.channelOf cls) →
      s.raiseStation cls r =
        s.modifyChannel (s.config.routing.channelOf cls) fun c => { c with queue := c.queue ++ [r] }) ∧
    (s.RoomAt ch →
      s.raiseVoid ch = s.modifyChannel ch fun c => { c with queue := c.queue ++ [.void s.station.timestamp] }) ∧
    (¬ s.RoomAt ch → (∀ set, .marker set ∉ (s.channel ch).deferral) →
      s.raiseVoid ch = (s.modifyChannel ch fun c => { c with deferral := c.deferral ++ [.marker { void := true }] }) ∧
      (s.config.routing.channelOf cls = ch →
        s.raiseStation cls r = s.modifyChannel ch fun c =>
          { c with deferral := c.deferral ++
              [.marker { ring := cls == .ring, membership := cls == .membership, faults := cls == .faults }] })) ∧
    ∀ before set after, ¬ s.RoomAt ch → (s.channel ch).deferral = before ++ .marker set :: after →
      (∀ x ∈ before ++ after, x.isMarker = false) →
      s.raiseVoid ch =
        (s.modifyChannel ch fun c => { c with deferral := before ++ .marker { set with void := true } :: after }) ∧
      (s.config.routing.channelOf cls = ch →
        s.raiseStation cls r = s.modifyChannel ch fun c =>
          { c with deferral := before ++ .marker { set with
              ring := set.ring || cls == .ring
              membership := set.membership || cls == .membership
              faults := set.faults || cls == .faults } :: after })

/-- The end of a tenancy: with an empty slot the entry becomes FREE with its generation kept; with a notice in the slot it
becomes CLOSING and keeps every field. Either way it leaves the wait list and the send list. A discarded notice leaves the
slot and the deferral list of its owner alone (R9, R141; that a CLOSING entry keeps every field is the model's, log entry
20). -/
def Obligations.TenancyEndsInFreeOrClosing : Prop :=
  ∀ (s : State) (i : EntryIx) (t : Tenancy), s.tenancy i = some t →
    (t.deferred = none → s.endTenancy i = s.freed i ∧ s.discardDeferred i = s) ∧
    ∀ n, t.deferred = some n →
      s.endTenancy i =
        ((s.setSendList (s.frames.sendList.filter fun x => x ≠ .claim i ∧ x ≠ .release i)).setWaiting
          (s.lease.waiting.filter (· ≠ i))).setEntry i
          { generation := (s.entry i).generation, tenancy := some { t with state := .closing } } ∧
      s.discardDeferred i =
        (s.modifyTenancy i ({ · with deferred := none })).modifyChannel t.owner
          fun c => { c with deferral := c.deferral.filter (· ≠ .entry i) }

/-- An examination treats the head of the wait list by the acceptance cases and goes on with the next head after a join or a
denial: case 1 and the waiting of case 2 leave the list; a SHARED head joins SHARED holders; where no entry on the tag is
active the head becomes CLAIMING while the Lease Table's station state is UP, and is denied otherwise, with attempts made and
no objector (R21, R22, R23). -/
def Obligations.ExaminationTreatsTheHeads : Prop :=
  ∀ (s d : State) (tag : Tag) (i : EntryIx) (rest : List EntryIx) (t : Tenancy),
    (s.waitList tag = [] → s.examine tag = s) ∧
    (s.waitList tag = i :: rest → s.tenancy i = some t → d = s.setWaiting (s.lease.waiting.filter (· ≠ i)) →
      (s.Blocked tag → s.examine tag = s) ∧
      (¬ s.Blocked tag → s.HeldOn tag → (t.mode = .exclusive ∨ s.HeldExclusiveOn tag) → s.examine tag = s) ∧
      (¬ s.Blocked tag → s.HeldOn tag → t.mode = .shared → ¬ s.HeldExclusiveOn tag →
        s.examine tag =
          ((d.modifyTenancy i fun u =>
            { u with state := .held u.term false, contendedNotified := false, expiringNotified := false }).raiseLease i
            (.granted .shared) {}).examine tag) ∧
      (¬ s.Blocked tag → ¬ s.HeldOn tag → s.lease.taken = .up →
        s.examine tag =
          (d.modifyTenancy i ({ · with state := .claiming .queued false })).setSendList
            (s.frames.sendList ++ [.claim i])) ∧
      (¬ s.Blocked tag → ¬ s.HeldOn tag → s.lease.taken ≠ .up →
        s.examine tag =
          ((d.raiseLease i (.denied (if s.lease.taken = .halted then .halted else .ringDown) none t.attempts) {}).endTenancy
            i).examine tag))

/-! ### Arrivals -/

/-- The two reports of an arrival: damage raises the fault score by 8 up to 255, an intact arrival lowers it by 1 down to
0, whatever the state it comes to; the warning is raised at 96 or above and cleared below 64, each with a FAULT_WARNING of
the new score; damage that leaves the score at 255 takes an UP station to DOWN with cause FAULTS (R79, R115, R116, R117; that
completed frames wait in a list is the model's, log entry 8). The statements about intact arrivals below begin with
State.afterIntact, which is this report once the arrival is off the list. -/
def Obligations.ArrivalsMoveTheFaultScore : Prop :=
  (∀ (s s1 : State) (a : Arrival) (rest : List Arrival) (score : Nat), s.Arrives a rest → a.judge = none →
    score = min 255 (s.station.faultScore + 8) →
    s1 = (s.modifyFrames ({ · with arrivals := rest })).modifyStation ({ · with faultScore := score }) →
    (s.station.faultWarning = true ∨ score < 96 → score < 255 ∨ s.station.state ≠ .up → exec .frameArrival s = next s1) ∧
    (s.station.faultWarning = true → score = 255 → s.station.state = .up →
      exec .frameArrival s = next (s1.goesDown .faults)) ∧
    (s.station.faultWarning = false → 96 ≤ score → score < 255 ∨ s.station.state ≠ .up →
      exec .frameArrival s =
        next ((s1.modifyStation ({ · with faultWarning := true })).raiseStation .faults
          (.faultWarning s.station.timestamp score true))) ∧
    (s.station.faultWarning = false → score = 255 → s.station.state = .up →
      exec .frameArrival s =
        next (((s1.modifyStation ({ · with faultWarning := true })).raiseStation .faults
          (.faultWarning s.station.timestamp score true)).goesDown .faults))) ∧
  ∀ s : State,
    (s.station.faultWarning = true → s.station.faultScore - 1 < 64 →
      s.reportIntact =
        (s.modifyStation ({ · with faultScore := s.station.faultScore - 1, faultWarning := false })).raiseStation .faults
          (.faultWarning s.station.timestamp (s.station.faultScore - 1) false)) ∧
    (s.station.faultWarning = false ∨ 64 ≤ s.station.faultScore - 1 →
      s.reportIntact = s.modifyStation ({ · with faultScore := s.station.faultScore - 1 }))

/-- R44: an own CLAIM that matches no entry CLAIMING in flight with its serial and tag is stripped, and nothing changes but
the intact count. -/
def Obligations.UnmatchedOwnClaimIsStripped : Prop :=
  ∀ (s : State) (a : Arrival) (rest : List Arrival) (f : Frame) (tag : Tag) (m : Mode) (standing : BitVec 4)
    (held yield : Bool) (objector : Option StationNo),
    s.Arrives a rest → a.judge = some f → s.Own f → f.body = .claim tag m standing held yield objector →
    (∀ i t circuit lost, s.tenancy i = some t → t.tag = tag → t.state ≠ .claiming (.inFlight f.serial circuit) lost) →
      exec .frameArrival s = next (s.afterIntact rest)

/-- The return of an own CLAIM that matches an entry: a detached entry ends without notice; an unmarked frame on an attached
entry whose lost flag is clear makes it HELD and raises GRANTED; else the attempt fails with cause HELD, YIELD or LOST, and
the entry backs off for the retry interval, four times it after HELD, or is denied at its attempt limit (R34 to R39). -/
def Obligations.OwnClaimReturnGrantsOrFails : Prop :=
  ∀ (s s0 : State) (a : Arrival) (rest : List Arrival) (f : Frame) (tag : Tag) (m : Mode) (standing : BitVec 4)
    (held yield lost : Bool) (objector : Option StationNo) (i : EntryIx) (t : Tenancy) (circuit retry : Nat),
    s.Arrives a rest → a.judge = some f → s.Own f → f.body = .claim tag m standing held yield objector →
    s.tenancy i = some t → t.tag = tag → t.state = .claiming (.inFlight f.serial circuit) lost →
    (∀ j u c l, j ≠ i → s.tenancy j = some u → u.tag = tag → u.state ≠ .claiming (.inFlight f.serial c) l) →
    s0 = s.afterIntact rest → retry = s.config.settings.retryInterval →
    (t.attached = false → exec .frameArrival s = next ((s0.endTenancy i).examine tag)) ∧
    (t.attached = true →
      (held = false → yield = false → lost = false →
        exec .frameArrival s =
          next (((s0.modifyTenancy i fun u =>
            { u with state := .held u.term false, contendedNotified := false, expiringNotified := false }).raiseLease i
            (.granted t.mode) {}).examine tag)) ∧
      (held = true → t.attempts < t.attemptLimit →
        exec .frameArrival s = next (s0.backsOff i .held objector (4 * retry))) ∧
      (held = true → t.attemptLimit ≤ t.attempts → exec .frameArrival s = next (s0.denied i t .held objector)) ∧
      (held = false → yield = true → t.attempts < t.attemptLimit →
        exec .frameArrival s = next (s0.backsOff i .yield objector retry)) ∧
      (held = false → yield = true → t.attemptLimit ≤ t.attempts →
        exec .frameArrival s = next (s0.denied i t .yield objector)) ∧
      (held = false → yield = false → lost = true → t.attempts < t.attemptLimit →
        exec .frameArrival s = next (s0.backsOff i .lost none retry)) ∧
      (held = false → yield = false → lost = true → t.attemptLimit ≤ t.attempts →
        exec .frameArrival s = next (s0.denied i t .lost none)))

/-- The return of an own RELEASE ends the tenancy of the RELEASING entry in flight with its serial and tag and has the wait
list examined; it changes nothing but the intact count when none matches. The return of an own CENSUS is stripped when
unmatched; matched it ends the census and records the circuit time, the difference of the two readings where that lies within 1
to 255000 us. A list that names this station's number after its first entry with another identity takes the station to HALTED;
else the list is adopted as the view by station state, and the losses are 0. JOINING enters UP with RING_STATE, cause JOINED, and
the interval timer started, and raises no MEMBERSHIP; UP raises MEMBERSHIP where the sequence of station numbers differs from the
previous view's; DOWN at a score of 32 or below enters UP with RING_STATE, cause RECOVERED, and the interval timer started, then
raises MEMBERSHIP where the sequence differs; DOWN above 32 keeps its view and state (R64, R80, R110 to R112, R114, R120; that
entering UP stands behind an untaken change is the model's, log entry 11). -/
def Obligations.OwnReleaseAndCensusReturns : Prop :=
  ∀ (s s0 : State) (a : Arrival) (rest : List Arrival) (f : Frame),
    s.Arrives a rest → a.judge = some f → s.Own f → s0 = s.afterIntact rest →
    (∀ tag, f.body = .release tag →
      (∀ i t circuit, s.tenancy i = some t → t.tag = tag → t.state = .releasing (.inFlight f.serial circuit) →
        (∀ j u c, j ≠ i → s.tenancy j = some u → u.tag = tag → u.state ≠ .releasing (.inFlight f.serial c)) →
        exec .frameArrival s = next ((s0.endTenancy i).examine tag)) ∧
      ((∀ i t circuit, s.tenancy i = some t → t.tag = tag → t.state ≠ .releasing (.inFlight f.serial circuit)) →
        exec .frameArrival s = next s0)) ∧
    ∀ members, f.body = .census members →
      ((∀ origin circuit, s.station.census ≠ .inFlight f.serial origin circuit) → exec .frameArrival s = next s0) ∧
      ∀ (origin circuit : Nat) (s1 : State), s.station.census = .inFlight f.serial origin circuit →
        1 ≤ s.time.micros - origin → s.time.micros - origin ≤ 255000 →
        s1 = s0.modifyStation ({ · with census := .none, lastCircuit := s.time.micros - origin }) →
        ((∃ m ∈ members.tail, m.number = s.config.settings.stationNumber ∧ m.identity ≠ s.identity) →
          s.station.state ≠ .halted → exec .frameArrival s = next s1.halts) ∧
        ((∀ m ∈ members.tail, m.number = s.config.settings.stationNumber → m.identity = s.identity) →
          (s.station.state = .joining → exec .frameArrival s = next (s1.goesUp members .joined)) ∧
          (s.station.state = .up →
            exec .frameArrival s =
              next ((s1.modifyStation ({ · with view := members, censusLosses := 0 })).reportsMembership s.station.view
                members)) ∧
          (s.station.state = .down → s1.station.faultScore ≤ 32 →
            exec .frameArrival s = next ((s1.goesUp members .recovered).reportsMembership s.station.view members)) ∧
          (s.station.state = .down → 32 < s1.station.faultScore →
            exec .frameArrival s = next (s1.modifyStation ({ · with censusLosses := 0 }))))

/-! ### Foreign frames -/

/-- R25: of two claims the better one has the higher standing, and at equal standing the lower station number; of claims of
different stations exactly one is better. -/
def Obligations.ClaimsAreOrderedByStandingThenNumber : Prop :=
  ∀ (standing standing' : Nat) (station station' : StationNo),
    (standing' < standing → better standing station standing' station' = true) ∧
    (better standing station standing station' = true ↔ station.toNat < station'.toNat) ∧
    (station ≠ station' → better standing station standing' station' = !better standing' station' standing station)

/-- A foreign frame is stripped as an orphan when its hop count is at or above the ring limit minus 1, and passed on otherwise.
One with this station's number and another source check takes a JOINING, UP or DOWN station to HALTED; whether the Lease Table
takes that change before it judges the frame or after it is open (R81), and a free value decides it for each such frame that is
passed on (log entry 12). Taken before, the Lease Table takes every change it has been told, one LEASE_TABLE_TAKES_STATE_CHANGE
after the other (R47, R79, R81, R82, R83, R120). -/
def Obligations.ForeignFramesAreStrippedOrPassed : Prop :=
  (∀ (s s0 : State) (a : Arrival) (rest : List Arrival) (f : Frame),
    s.Arrives a rest → a.judge = some f → ¬ s.Own f → s0 = s.afterIntact rest →
    (f.source ≠ s.config.settings.stationNumber ∨ s.station.state = .halted →
      (s.config.settings.ringLimit ≤ f.hop.toNat + 1 → exec .frameArrival s = next s0) ∧
      (f.hop.toNat + 1 < s.config.settings.ringLimit → exec .frameArrival s = next (s0.passFrame f a.words))) ∧
    (f.source = s.config.settings.stationNumber → s.station.state ≠ .halted →
      (s.config.settings.ringLimit ≤ f.hop.toNat + 1 → exec .frameArrival s = next s0.halts) ∧
      (f.hop.toNat + 1 < s.config.settings.ringLimit →
        (Config.haltedFirst s.choices = false →
          exec .frameArrival s = next (({ s0.halts with choices := s.choices + 1 } : State).passFrame f a.words)) ∧
        (Config.haltedFirst s.choices = true →
          exec .frameArrival s =
            next (({ s0.halts with choices := s.choices + 1 } : State).takeChanges.passFrame f a.words))))) ∧
  ∀ u v : State,
    (u.lease.changes = [] → u.takeChanges = u) ∧
    (u.lease.changes ≠ [] → exec .leaseTableTakesStateChange u = next v → u.takeChanges = v.takeChanges)

/-- A CLAIM passing the station is judged by the station's position on its tag: a holder in conflict marks it HELD, writes
the objector where none is present and demands on its HELD entries; a better pending claim in conflict marks it YIELD; a
worse one notes its loss; at equal standing and number both happen; in every other position nothing happens. A mark or an
objector already there stays (R14, R24, R28 to R33). -/
def Obligations.PassingClaimIsJudged : Prop :=
  ∀ (s : State) (f : Frame) (ws : List Word) (tag : Tag) (m : Mode) (standing : BitVec 4) (held yield : Bool)
    (objector : Option StationNo) (here : StationNo),
    f.body = .claim tag m standing held yield objector → here = s.config.settings.stationNumber →
    (s.HeldExclusiveOn tag ∨ (s.HeldOn tag ∧ m = .exclusive) →
      s.passFrame f ws =
        (allIx.foldl (State.demandOn tag f.source) s).intoTransit
          (forwardWords ws (claimChange true yield (some (objector.getD here))))) ∧
    (s.HeldOn tag → ¬ s.HeldExclusiveOn tag → m = .shared →
      s.passFrame f ws = s.intoTransit (forwardWords ws (claimChange held yield objector))) ∧
    (¬ s.HeldOn tag →
      (∀ i t phase lost, s.tenancy i = some t → t.tag = tag → t.attached = true → t.state ≠ .claiming phase lost) →
      s.passFrame f ws = s.intoTransit (forwardWords ws (claimChange held yield objector))) ∧
    ∀ i t phase lost own, ¬ s.HeldOn tag → s.tenancy i = some t → t.tag = tag → t.attached = true →
      t.state = .claiming phase lost →
      (∀ j u ph l, j ≠ i → s.tenancy j = some u → u.tag = tag → u.attached = true → u.state ≠ .claiming ph l) →
      own = min 15 (t.priority + (if phase = .queued then t.attempts + 1 else t.attempts) - 1) →
      (m = .shared → t.mode = .shared →
        s.passFrame f ws = s.intoTransit (forwardWords ws (claimChange held yield objector))) ∧
      (m = .exclusive ∨ t.mode = .exclusive →
        (standing.toNat < own ∨ (standing.toNat = own ∧ here.toNat < f.source.toNat) →
          s.passFrame f ws =
            s.intoTransit (forwardWords ws (claimChange held true (some (objector.getD here))))) ∧
        (own < standing.toNat ∨ (standing.toNat = own ∧ f.source.toNat < here.toNat) →
          s.passFrame f ws =
            (s.modifyTenancy i ({ · with state := .claiming phase true })).intoTransit
              (forwardWords ws (claimChange held yield objector))) ∧
        (standing.toNat = own → f.source = here →
          s.passFrame f ws =
            (s.modifyTenancy i ({ · with state := .claiming phase true })).intoTransit
              (forwardWords ws (claimChange held true (some (objector.getD here))))))

/-- A station that objects as a holder sets remote demand and contended notified on every HELD entry on the tag and leaves the
other entries as they are. One entry after the other, in ascending order of index, each that had not been notified raises
CONTENDED with the claimant to its owner, by the rule for every lease notice: it joins the owner's queue, or waits in the
entry's slot, or is combined with the notice there. Where a channel has room for all its notices, they join its queue in that
order (R29, R30, R132, R134). -/
def Obligations.HolderDemandsOnEveryLease : Prop :=
  ∀ (s t : State) (tag : Tag) (claimant : StationNo), t = allIx.foldl (State.demandOn tag claimant) s →
    (∃ after : Nat → State, after 0 = s ∧ after 64 = t ∧
      ∀ i : EntryIx, (after i.val).EntryDemanded tag claimant i (after (i.val + 1))) ∧
    (∀ i u, s.tenancy i = some u → u.tag ≠ tag ∨ u.isHeld = false → t.tenancy i = some u) ∧
    (∀ i u remaining demand, s.tenancy i = some u → u.tag = tag → u.state = .held remaining demand →
      ∃ d, t.tenancy i = some { u with state := .held remaining true, contendedNotified := true, deferred := d } ∧
        (u.contendedNotified = true → d = u.deferred)) ∧
    ∀ ch notified, (s.channel ch).deferral = [] →
      notified = (allIx.filter fun i =>
        s.entryMeets (fun u => u.tag == tag && u.isHeld && u.owner == ch && !u.contendedNotified) i) →
      (s.channel ch).queue.length + notified.length ≤ 24 →
      (t.channel ch).queue = (s.channel ch).queue ++ notified.map (fun i =>
        .lease { kind := .contended claimant, timestamp := s.station.timestamp, index := i,
                 generation := (s.entry i).generation, tag := tag, marks := {} }) ∧
      (t.channel ch).deferral = []

/-- A foreign RELEASE ends the backoff of the BACKOFF entry on its tag, which re-enters CLAIMING, and does nothing else at the
Lease Table. A foreign CENSUS that lists this station's number with another identity takes the station to HALTED; one that
lists it with its own, or holds 64 entries, is stripped; any other is forwarded with this station's entry at its end. A
forwarded frame joins the tail of the transit store, or is dropped where it would take it above 512 words (R41, R83, R84, R96,
R120). -/
def Obligations.PassingReleaseAndCensus : Prop :=
  ∀ (s : State) (f : Frame) (ws : List Word),
    (∀ tag i t timer, f.body = .release tag → s.tenancy i = some t → t.tag = tag → t.state = .backoff timer →
      (∀ j u k, j ≠ i → s.tenancy j = some u → u.tag = tag → u.state ≠ .backoff k) →
      s.passFrame f ws =
        ((s.modifyTenancy i ({ · with state := .claiming .queued false })).setSendList
          (s.frames.sendList ++ [.claim i])).intoTransit (forwardWords ws id)) ∧
    (∀ tag, f.body = .release tag → (∀ i t timer, s.tenancy i = some t → t.tag = tag → t.state ≠ .backoff timer) →
      s.passFrame f ws = s.intoTransit (forwardWords ws id)) ∧
    (∀ members s1, f.body = .census members →
      s1 = (if (∃ m ∈ members, m.number = s.config.settings.stationNumber ∧ m.identity ≠ s.identity) ∧
        s.station.state ≠ .halted ∧ s.station.state ≠ .offline then s.halts else s) →
      (({ number := s.config.settings.stationNumber, identity := s.identity } : Member) ∈ members ∨
        64 ≤ members.length → s.passFrame f ws = s1) ∧
      (({ number := s.config.settings.stationNumber, identity := s.identity } : Member) ∉ members →
        members.length < 64 →
        s.passFrame f ws = s1.intoTransit (forwardWords ws (censusChange (members.length + 1)
          { number := s.config.settings.stationNumber, identity := s.identity })))) ∧
    (transitWords s.line.transit + ws.length ≤ 512 →
      s.intoTransit ws = s.modifyLine ({ · with transit := s.line.transit ++ [ws] })) ∧
    (512 < transitWords s.line.transit + ws.length → s.intoTransit ws = s)

/-! ### The ring line -/

/-- At a frame boundary in INSERTED the transmitter sends the oldest forwarded frame; from an empty transit store it
originates the frame of the oldest sendable item, which leaves the send list: a CLAIM at the standing of the attempt it
begins, which counts as made, a RELEASE, or a CENSUS of one entry, each with the next serial, whose owner goes in flight
with its circuit timer started; with nothing to send it sends IDLE. In UP every item is sendable, in JOINING and DOWN the
census, in HALTED none (R24, R27, R63, R85, R88 to R90, R97, R109; that the event's coming means the gap is over is the
model's, log entry 7). -/
def Obligations.FrameBoundaryForwardsOriginatesOrFills : Prop :=
  ∀ (s : State) (timeout : Nat) (header : FrameBody → Frame),
    s.line.mode = .inserted → (∀ ws sent, s.line.transmitter ≠ .sending ws sent) → timeout = s.config.settings.circuitTimeout →
    (∀ body, header body = { source := s.config.settings.stationNumber, check := s.identity.extractLsb' 0 16, hop := 0,
                             serial := s.frames.serial, body := body }) →
    (∀ ws rest, s.line.transit = ws :: rest →
      exec .frameBoundary s = next (s.modifyLine ({ · with transit := rest, transmitter := .sending ws 1 }))) ∧
    (s.line.transit = [] →
      (∀ i t lost rest, s.station.state = .up → s.frames.sendList = .claim i :: rest → s.tenancy i = some t →
        t.state = .claiming .queued lost →
        exec .frameBoundary s =
          next (((s.modifyLine ({ · with transmitter := .sending (header (.claim t.tag t.mode
            (BitVec.ofNat 4 (min 15 (t.priority + (t.attempts + 1) - 1))) false false none)).encode 1 })).modifyFrames
            ({ · with sendList := rest, serial := s.frames.serial + 1 })).modifyTenancy i
            ({ · with attempts := t.attempts + 1, state := .claiming (.inFlight s.frames.serial timeout) lost }))) ∧
      (∀ i t rest, s.station.state = .up → s.frames.sendList = .release i :: rest → s.tenancy i = some t →
        t.state = .releasing .queued →
        exec .frameBoundary s =
          next (((s.modifyLine ({ · with transmitter := .sending (header (.release t.tag)).encode 1 })).modifyFrames
            ({ · with sendList := rest, serial := s.frames.serial + 1 })).modifyTenancy i
            ({ · with state := .releasing (.inFlight s.frames.serial timeout) }))) ∧
      (∀ before after, s.frames.sendList = before ++ .census :: after → .census ∉ before →
        (s.station.state = .up ∧ before = []) ∨ s.station.state = .joining ∨ s.station.state = .down →
        exec .frameBoundary s =
          next (((s.modifyLine ({ · with transmitter := .sending (header (.census
            [{ number := s.config.settings.stationNumber, identity := s.identity }])).encode 1 })).modifyFrames
            ({ · with sendList := before ++ after, serial := s.frames.serial + 1 })).modifyStation
            ({ · with census := .inFlight s.frames.serial s.time.micros timeout }))) ∧
      (s.frames.sendList = [] ∨ s.station.state = .halted ∨
        ((s.station.state = .joining ∨ s.station.state = .down) ∧ .census ∉ s.frames.sendList) →
        exec .frameBoundary s = next (s.modifyLine ({ · with transmitter := .idle 0 }))))

/-- In INSERTED a valid word makes the detector PRESENT with its silence timer started anew, and in JOINING the change from
SILENT adds the census that waits for it; the receiver then collects the words between START and END, up to 197, notes
violations and words beyond, and completes a frame on END, or cut short on START or IDLE. The silence timer's expiry makes the
detector SILENT, completes a frame being received as cut short, and takes an UP station to DOWN with cause SILENCE, changing
no state in any other. A PRESENT detector is not made PRESENT again, nor a SILENT one SILENT. In BYPASSED, SETTLING and
DRAINING no frame is assembled, the detector is held and nothing is reported: words and the two events of the detector change
nothing (R92 to R95, R108, R118; that a word received does UPSTREAM_PRESENT's part and that completed frames wait in a list is
the model's, log entries 5, 8 and 10). -/
def Obligations.ReceivedWordsMakeArrivals : Prop :=
  (∀ (s : State) (w : LineWord), s.line.mode ≠ .inserted →
    exec (.lineWordReceived w) s = next s ∧ exec .upstreamPresent s = next s ∧ exec .upstreamSilent s = next s) ∧
  (∀ s : State,
    (∀ timer, s.line.detector = .present timer → exec .upstreamPresent s = next s) ∧
    (s.line.detector = .silent → exec .upstreamSilent s = next s)) ∧
  ∀ (s s1 : State) (w : LineWord), s.line.mode = .inserted →
    (w = .violation → s1 = s) →
    (w ≠ .violation → (∃ timer, s.line.detector = .present timer) ∨ s.station.state ≠ .joining ∨
      s.station.awaitsUpstream = false ∨ s.station.census ≠ .none →
      s1 = s.modifyLine ({ · with detector := .present 50 })) →
    (w ≠ .violation → s.line.detector = .silent → s.station.state = .joining → s.station.awaitsUpstream = true →
      s.station.census = .none → s1 = (s.modifyLine ({ · with detector := .present 50 })).queuesCensus) →
    (s.line.detector = .silent → w ≠ .violation → exec .upstreamPresent s = next s1) ∧
    (s.line.receiver = .between →
      (w = .start →
        exec (.lineWordReceived w) s = next (s1.modifyLine ({ · with receiver := .inFrame [] false false }))) ∧
      (w ≠ .start → exec (.lineWordReceived w) s = next s1)) ∧
    (∀ store violation overlong, s.line.receiver = .inFrame store violation overlong →
      (∀ x, w = .data x → store.length < 197 →
        exec (.lineWordReceived w) s =
          next (s1.modifyLine ({ · with receiver := .inFrame (store ++ [x]) violation overlong }))) ∧
      (∀ x, w = .data x → 197 ≤ store.length →
        exec (.lineWordReceived w) s = next (s1.modifyLine ({ · with receiver := .inFrame store violation true }))) ∧
      (w = .violation →
        exec (.lineWordReceived w) s = next (s1.modifyLine ({ · with receiver := .inFrame store true overlong }))) ∧
      (w = .fin →
        exec (.lineWordReceived w) s =
          next ((s1.modifyFrames fun f => { f with arrivals := f.arrivals ++ [⟨store, violation, overlong, false⟩] }).modifyLine
            ({ · with receiver := .between }))) ∧
      (w = .start →
        exec (.lineWordReceived w) s =
          next ((s1.modifyFrames fun f => { f with arrivals := f.arrivals ++ [⟨store, violation, overlong, true⟩] }).modifyLine
            ({ · with receiver := .inFrame [] false false }))) ∧
      (w = .idle →
        exec (.lineWordReceived w) s =
          next ((s1.modifyFrames fun f => { f with arrivals := f.arrivals ++ [⟨store, violation, overlong, true⟩] }).modifyLine
            ({ · with receiver := .between })))) ∧
    ∀ (timer : Nat) (q : State), s.line.detector = .present timer →
      (s.line.receiver = .between → q = s.modifyLine ({ · with detector := .silent })) →
      (∀ store violation overlong, s.line.receiver = .inFrame store violation overlong →
        q = (s.modifyFrames fun f => { f with arrivals := f.arrivals ++ [⟨store, violation, overlong, true⟩] }).modifyLine
          ({ · with receiver := .between, detector := .silent })) →
      (s.station.state = .up → exec .upstreamSilent s = next (q.goesDown .silence)) ∧
      (s.station.state ≠ .up → exec .upstreamSilent s = next q)

/-- The END of a frame has its word time on ring-out; sent in INSERTED it leaves the whole gap owed, in DRAINING it closes the
bypass at once, and the station is OFFLINE with leaving clear. The relay settle timer's expiry enters INSERTED between frames,
with the detector SILENT, two IDLE words owed and the join hold-off of twice the circuit timeout started. The station timestamp
counts its ticks, wrapping, in every state but OFFLINE (R91, R97, R98, R101, R102, R108, R122, R124; that an expiry acts whenever
its timer runs, that a FRAME_END_SENT that a LEAVE has overtaken acts as DRAINING_END_SENT, and that the Lease Table's view of
the station state is OFFLINE from the closing of the bypass, setTaken .offline, is the model's, log entries 5, 9 and 11). -/
def Obligations.TransmitterRelayAndTimestamp : Prop :=
  ∀ s : State,
    (∀ ws sent, s.line.mode = .inserted → s.line.transmitter = .sending ws sent →
      exec .frameEndSent s = next (s.modifyLine ({ · with transmitter := .ended }))) ∧
    (s.rstnLow = false → s.line.transmitter = .ended → s.ringOutWord = some .fin) ∧
    (∀ c, s.line.mode = .draining → c = .drainingEndSent ∨ c = .frameEndSent →
      exec c s =
        next (((s.modifyLine ({ · with mode := .bypassed, transmitter := .ended })).modifyStation
          ({ · with state := .offline, leaving := false })).setTaken .offline)) ∧
    (∀ timer, s.line.mode = .settling timer →
      exec .relaySettleExpiry s =
        next ((s.modifyLine ({ · with
          mode := .inserted
          detector := .silent
          receiver := .between
          transmitter := .idle 2 })).modifyStation
          ({ · with holdOff := some (2 * s.config.settings.circuitTimeout) }))) ∧
    (s.station.state = .offline → exec .stationTimestampTick s = next s) ∧
    (s.station.state ≠ .offline →
      ∃ t, exec .stationTimestampTick s = next t ∧ t = s.modifyStation ({ · with timestamp := t.station.timestamp }) ∧
        t.station.timestamp.toNat = (s.station.timestamp.toNat + 1) % 4294967296)

/-! ### Timers -/

/-- The timers of the Station Controller: the hold-off's expiry adds the first census, or has it wait for the upstream
signal; the interval's expiry adds a census while there is none, in UP always, in DOWN with the upstream signal present
and the fault score at or below 32, in JOINING with the signal present, else waiting for it; a census loss starts the
interval in JOINING, adds a census at once in UP after no loss, and takes UP to DOWN after one (R108, R109, R110, R113,
R118; that an expiry acts whenever its timer runs is the model's, log entry 5). -/
def Obligations.StationTimersDriveTheCensus : Prop :=
  ∀ (s s1 : State) (k : Nat),
    (s.station.holdOff = some k → s1 = s.modifyStation ({ · with holdOff := none }) →
      (s.upstreamIsPresent = true → s.station.census = .none → exec .joinHoldOffExpiry s = next s1.queuesCensus) ∧
      (s.upstreamIsPresent = true → s.station.census ≠ .none → exec .joinHoldOffExpiry s = next s1) ∧
      (s.upstreamIsPresent = false →
        exec .joinHoldOffExpiry s = next (s1.modifyStation ({ · with awaitsUpstream := true })))) ∧
    (s.station.interval = some k →
      (s.station.state = .up ∨ s.station.state = .down →
        s1 = s.modifyStation ({ · with interval := some s.config.settings.censusInterval }) →
        (s.station.census = .none → s.station.state = .up ∨ (s.upstreamIsPresent = true ∧ s.station.faultScore ≤ 32) →
          exec .censusIntervalExpiry s = next s1.queuesCensus) ∧
        (s.station.census ≠ .none ∨
          (s.station.state = .down ∧ (s.upstreamIsPresent = false ∨ 32 < s.station.faultScore)) →
          exec .censusIntervalExpiry s = next s1)) ∧
      (s.station.state = .joining → s1 = s.modifyStation ({ · with interval := none }) →
        (s.station.census = .none → s.upstreamIsPresent = true →
          exec .censusIntervalExpiry s = next s1.queuesCensus) ∧
        (s.station.census = .none → s.upstreamIsPresent = false →
          exec .censusIntervalExpiry s = next (s1.modifyStation ({ · with awaitsUpstream := true }))) ∧
        (s.station.census ≠ .none → exec .censusIntervalExpiry s = next s1))) ∧
    ∀ serial origin circuit, s.station.census = .inFlight serial origin circuit →
      s1 = s.modifyStation ({ · with census := .none }) →
      (s.station.state = .joining →
        exec .censusLoss s =
          next (s1.modifyStation ({ · with interval := some s.config.settings.censusInterval }))) ∧
      (s.station.state = .up → s.station.censusLosses = 0 →
        exec .censusLoss s = next (s1.modifyStation ({ · with censusLosses := 1 })).queuesCensus) ∧
      (s.station.state = .up → s.station.censusLosses = 1 → exec .censusLoss s = next (s1.goesDown .censusLost)) ∧
      (s.station.state = .down → exec .censusLoss s = next s1)

/-- A tick of a term lowers the remaining term by one and raises EXPIRING with what remains when the warning is due: once,
with a margin that is not 0, at or below it and above 0. At 0 the term expires: EXPIRED is raised before anything else, the
entry is detached and taken out of HELD by the release procedure, so that its tenancy ends beside another holder, in a hand-on
to the head of the wait list, which becomes HELD for its own term and is GRANTED with the handed-on mark, and in DOWN and
HALTED, and it becomes RELEASING otherwise (R52 to R54, R57 to R60; that the tick to 0 and the expiry are two
commands is the model's, log entry 6). -/
def Obligations.TermTicksWarnAndExpire : Prop :=
  ∀ (s : State) (i : EntryIx) (t : Tenancy) (demand : Bool), s.tenancy i = some t →
    (∀ k margin, t.state = .held (k + 1) demand → margin = s.config.settings.warningMargin →
      (margin ≠ 0 → k ≤ margin → 0 < k → t.expiringNotified = false →
        exec (.termTick i) s =
          next ((s.modifyTenancy i ({ · with state := .held k demand, expiringNotified := true })).raiseLease i
            (.expiring k) {})) ∧
      (margin = 0 ∨ margin < k ∨ k = 0 ∨ t.expiringNotified = true →
        exec (.termTick i) s = next (s.modifyTenancy i ({ · with state := .held k demand })))) ∧
    ∀ e d, t.state = .held 0 demand → e = s.raiseLease i .expired {} →
      d = (e.modifyTenancy i ({ · with attached := false })).endTenancy i →
      (¬ s.LastHolder i t.tag → exec (.termExpiry i) s = next (d.examine t.tag)) ∧
      (∀ j rest w, s.LastHolder i t.tag → t.mode = .exclusive → demand = false → s.waitList t.tag = j :: rest →
        s.tenancy j = some w →
        exec (.termExpiry i) s =
          next ((((d.setWaiting (d.lease.waiting.filter (· ≠ j))).modifyTenancy j fun u =>
            { u with state := .held u.term false, contendedNotified := false, expiringNotified := false }).raiseLease j
            (.granted w.mode) { handedOn := true }).examine t.tag)) ∧
      (s.LastHolder i t.tag → t.mode = .shared ∨ demand = true ∨ s.waitList t.tag = [] →
        (s.lease.taken = .up → exec (.termExpiry i) s = next (e.toTheRing i)) ∧
        (s.lease.taken ≠ .up → exec (.termExpiry i) s = next (d.examine t.tag)))

/-- The other timers of an entry: the end of a backoff re-enters CLAIMING with a new item; the circuit timeout of an
attached claim fails the attempt with cause TIMEOUT, into a backoff of one retry interval or a denial at the attempt
limit; that of a detached claim or of a RELEASING entry ends the tenancy without a notice (R38, R40, R42, R43, R65; that
an expiry acts whenever its timer runs is the model's, log entry 5). -/
def Obligations.EntryTimersRetryFailOrEnd : Prop :=
  ∀ (s : State) (i : EntryIx) (t : Tenancy), s.tenancy i = some t →
    (∀ timer, t.state = .backoff timer →
      exec (.backoffExpiry i) s =
        next ((s.modifyTenancy i ({ · with state := .claiming .queued false })).setSendList
          (s.frames.sendList ++ [.claim i]))) ∧
    (∀ serial circuit lost, t.state = .claiming (.inFlight serial circuit) lost →
      (t.attached = true → t.attempts < t.attemptLimit →
        exec (.claimCircuitTimeout i) s = next (s.backsOff i .timeout none s.config.settings.retryInterval)) ∧
      (t.attached = true → t.attemptLimit ≤ t.attempts →
        exec (.claimCircuitTimeout i) s = next (s.denied i t .timeout none)) ∧
      (t.attached = false → exec (.claimCircuitTimeout i) s = next ((s.endTenancy i).examine t.tag))) ∧
    (∀ serial circuit, t.state = .releasing (.inFlight serial circuit) →
      exec (.releaseCircuitTimeout i) s = next ((s.endTenancy i).examine t.tag))

/-- The Lease Table takes a change to DOWN or HALTED as one event: with the new state in place it treats the entries one after
the other in ascending order of index, each attached CLAIMING and each BACKOFF entry denied with cause RING_DOWN or HALTED,
its attempts made and no objector, each detached CLAIMING and each RELEASING entry ended without a notice, and then examines
once the wait list of each tag on which an entry changed, in ascending order of tag value. No entry is CLAIMING, BACKOFF or
RELEASING afterwards, HELD and CLOSING entries are as before, and only the census item can remain in the send list. A return
to UP changes no entry; one told right after the change is taken with it (R21, R47, R49, R66; that a change to UP waits behind
an untaken change and is taken right after it is the model's, log entry 11). -/
def Obligations.LeaseTableTakesStationChanges : Prop :=
  ∀ (s : State) (rest : List StationState),
    (∀ x cause, s.lease.changes = x :: rest → (x = .down ∧ cause = .ringDown ∨ x = .halted ∧ cause = .halted) →
      (∃ (t : State) (after : Nat → State) (tags : List Tag),
        after 0 = (s.setChanges rest).setTaken x ∧
        (∀ i : EntryIx, (after i.val).EntryChanged cause i (after (i.val + 1))) ∧
        tags.Pairwise (fun a b => a.toNat < b.toNat) ∧
        (∀ g, g ∈ tags ↔ ∃ i u, s.tenancy i = some u ∧ u.tag = g ∧ u.blocks = true) ∧
        t = tags.foldl (fun y g => y.examine g) (after 64) ∧
        (rest.head? ≠ some .up → exec .leaseTableTakesStateChange s = next t) ∧
        (∀ later, rest = .up :: later →
          exec .leaseTableTakesStateChange s = next ((t.setTaken .up).setChanges later)) ∧
        t.lease.taken = x ∧ t.lease.changes = rest ∧ (∀ tag, ¬ t.Blocked tag) ∧
        (∀ i u, s.tenancy i = some u → u.isHeld = true ∨ u.state = .closing → t.tenancy i = some u) ∧
        t.station = s.station ∧ t.config = s.config ∧ t.line = s.line ∧
        (s.SendListExact → ∀ item ∈ t.frames.sendList, item = .census)) ∧
      (rest.head? ≠ some .up →
        ∀ i u, s.tenancy i = some u → u.blocks = true → (∀ phase, u.state ≠ .releasing phase) → u.attached = true →
          (∀ j v, j ≠ i → s.tenancy j = some v → v.blocks = false) → s.waitList u.tag = [] →
          exec .leaseTableTakesStateChange s =
            next ((((s.setChanges rest).setTaken x).raiseLease i (.denied cause none u.attempts) {}).endTenancy i))) ∧
    (s.lease.changes = .up :: rest →
      exec .leaseTableTakesStateChange s = next ((s.setTaken .up).setChanges rest)) ∧
    (s.lease.changes = [] → exec .leaseTableTakesStateChange s = next s)

end
end

