-- ==== Sys2Proof/Laws/State.lean ====
section
/-! SUPPORT. One lemma per field per update of the state, and what the accessors of entries, channels and wait lists read
after each update. -/

namespace Sys2Proof.Machine

/-! ### setEntry -/

@[simp] theorem State.setEntry_frames (s : State) (i : EntryIx) (e : Entry) : (s.setEntry i e).frames = s.frames := rfl

@[simp] theorem State.setEntry_station (s : State) (i : EntryIx) (e : Entry) : (s.setEntry i e).station = s.station := rfl

@[simp] theorem State.setEntry_line (s : State) (i : EntryIx) (e : Entry) : (s.setEntry i e).line = s.line := rfl

@[simp] theorem State.setEntry_channels (s : State) (i : EntryIx) (e : Entry) : (s.setEntry i e).channels = s.channels := rfl

@[simp] theorem State.setEntry_config (s : State) (i : EntryIx) (e : Entry) : (s.setEntry i e).config = s.config := rfl

@[simp] theorem State.setEntry_time (s : State) (i : EntryIx) (e : Entry) : (s.setEntry i e).time = s.time := rfl

@[simp] theorem State.setEntry_identity (s : State) (i : EntryIx) (e : Entry) : (s.setEntry i e).identity = s.identity := rfl

@[simp] theorem State.setEntry_rstnLow (s : State) (i : EntryIx) (e : Entry) : (s.setEntry i e).rstnLow = s.rstnLow := rfl

@[simp] theorem State.setEntry_ports (s : State) (i : EntryIx) (e : Entry) : (s.setEntry i e).ports = s.ports := rfl

@[simp] theorem State.setEntry_choices (s : State) (i : EntryIx) (e : Entry) : (s.setEntry i e).choices = s.choices := rfl

@[simp] theorem State.setEntry_pending (s : State) (i : EntryIx) (e : Entry) : (s.setEntry i e).pending = s.pending := rfl

/-! ### modifyTenancy -/

@[simp] theorem State.modifyTenancy_frames (s : State) (i : EntryIx) (f : Tenancy → Tenancy) : (s.modifyTenancy i f).frames = s.frames := rfl

@[simp] theorem State.modifyTenancy_station (s : State) (i : EntryIx) (f : Tenancy → Tenancy) : (s.modifyTenancy i f).station = s.station := rfl

@[simp] theorem State.modifyTenancy_line (s : State) (i : EntryIx) (f : Tenancy → Tenancy) : (s.modifyTenancy i f).line = s.line := rfl

@[simp] theorem State.modifyTenancy_channels (s : State) (i : EntryIx) (f : Tenancy → Tenancy) : (s.modifyTenancy i f).channels = s.channels := rfl

@[simp] theorem State.modifyTenancy_config (s : State) (i : EntryIx) (f : Tenancy → Tenancy) : (s.modifyTenancy i f).config = s.config := rfl

@[simp] theorem State.modifyTenancy_time (s : State) (i : EntryIx) (f : Tenancy → Tenancy) : (s.modifyTenancy i f).time = s.time := rfl

@[simp] theorem State.modifyTenancy_identity (s : State) (i : EntryIx) (f : Tenancy → Tenancy) : (s.modifyTenancy i f).identity = s.identity := rfl

@[simp] theorem State.modifyTenancy_rstnLow (s : State) (i : EntryIx) (f : Tenancy → Tenancy) : (s.modifyTenancy i f).rstnLow = s.rstnLow := rfl

@[simp] theorem State.modifyTenancy_ports (s : State) (i : EntryIx) (f : Tenancy → Tenancy) : (s.modifyTenancy i f).ports = s.ports := rfl

@[simp] theorem State.modifyTenancy_choices (s : State) (i : EntryIx) (f : Tenancy → Tenancy) : (s.modifyTenancy i f).choices = s.choices := rfl

@[simp] theorem State.modifyTenancy_pending (s : State) (i : EntryIx) (f : Tenancy → Tenancy) : (s.modifyTenancy i f).pending = s.pending := rfl

/-! ### setWaiting -/

@[simp] theorem State.setWaiting_frames (s : State) (w : List EntryIx) : (s.setWaiting w).frames = s.frames := rfl

@[simp] theorem State.setWaiting_station (s : State) (w : List EntryIx) : (s.setWaiting w).station = s.station := rfl

@[simp] theorem State.setWaiting_line (s : State) (w : List EntryIx) : (s.setWaiting w).line = s.line := rfl

@[simp] theorem State.setWaiting_channels (s : State) (w : List EntryIx) : (s.setWaiting w).channels = s.channels := rfl

@[simp] theorem State.setWaiting_config (s : State) (w : List EntryIx) : (s.setWaiting w).config = s.config := rfl

@[simp] theorem State.setWaiting_time (s : State) (w : List EntryIx) : (s.setWaiting w).time = s.time := rfl

@[simp] theorem State.setWaiting_identity (s : State) (w : List EntryIx) : (s.setWaiting w).identity = s.identity := rfl

@[simp] theorem State.setWaiting_rstnLow (s : State) (w : List EntryIx) : (s.setWaiting w).rstnLow = s.rstnLow := rfl

@[simp] theorem State.setWaiting_ports (s : State) (w : List EntryIx) : (s.setWaiting w).ports = s.ports := rfl

@[simp] theorem State.setWaiting_choices (s : State) (w : List EntryIx) : (s.setWaiting w).choices = s.choices := rfl

@[simp] theorem State.setWaiting_pending (s : State) (w : List EntryIx) : (s.setWaiting w).pending = s.pending := rfl

/-! ### setTaken -/

@[simp] theorem State.setTaken_frames (s : State) (x : StationState) : (s.setTaken x).frames = s.frames := rfl

@[simp] theorem State.setTaken_station (s : State) (x : StationState) : (s.setTaken x).station = s.station := rfl

@[simp] theorem State.setTaken_line (s : State) (x : StationState) : (s.setTaken x).line = s.line := rfl

@[simp] theorem State.setTaken_channels (s : State) (x : StationState) : (s.setTaken x).channels = s.channels := rfl

@[simp] theorem State.setTaken_config (s : State) (x : StationState) : (s.setTaken x).config = s.config := rfl

@[simp] theorem State.setTaken_time (s : State) (x : StationState) : (s.setTaken x).time = s.time := rfl

@[simp] theorem State.setTaken_identity (s : State) (x : StationState) : (s.setTaken x).identity = s.identity := rfl

@[simp] theorem State.setTaken_rstnLow (s : State) (x : StationState) : (s.setTaken x).rstnLow = s.rstnLow := rfl

@[simp] theorem State.setTaken_ports (s : State) (x : StationState) : (s.setTaken x).ports = s.ports := rfl

@[simp] theorem State.setTaken_choices (s : State) (x : StationState) : (s.setTaken x).choices = s.choices := rfl

@[simp] theorem State.setTaken_pending (s : State) (x : StationState) : (s.setTaken x).pending = s.pending := rfl

/-! ### setChanges -/

@[simp] theorem State.setChanges_frames (s : State) (cs : List StationState) : (s.setChanges cs).frames = s.frames := rfl

@[simp] theorem State.setChanges_station (s : State) (cs : List StationState) : (s.setChanges cs).station = s.station := rfl

@[simp] theorem State.setChanges_line (s : State) (cs : List StationState) : (s.setChanges cs).line = s.line := rfl

@[simp] theorem State.setChanges_channels (s : State) (cs : List StationState) : (s.setChanges cs).channels = s.channels := rfl

@[simp] theorem State.setChanges_config (s : State) (cs : List StationState) : (s.setChanges cs).config = s.config := rfl

@[simp] theorem State.setChanges_time (s : State) (cs : List StationState) : (s.setChanges cs).time = s.time := rfl

@[simp] theorem State.setChanges_identity (s : State) (cs : List StationState) : (s.setChanges cs).identity = s.identity := rfl

@[simp] theorem State.setChanges_rstnLow (s : State) (cs : List StationState) : (s.setChanges cs).rstnLow = s.rstnLow := rfl

@[simp] theorem State.setChanges_ports (s : State) (cs : List StationState) : (s.setChanges cs).ports = s.ports := rfl

@[simp] theorem State.setChanges_choices (s : State) (cs : List StationState) : (s.setChanges cs).choices = s.choices := rfl

@[simp] theorem State.setChanges_pending (s : State) (cs : List StationState) : (s.setChanges cs).pending = s.pending := rfl

/-! ### modifyChannel -/

@[simp] theorem State.modifyChannel_lease (s : State) (c : Channel) (f : ChannelState → ChannelState) : (s.modifyChannel c f).lease = s.lease := rfl

@[simp] theorem State.modifyChannel_frames (s : State) (c : Channel) (f : ChannelState → ChannelState) : (s.modifyChannel c f).frames = s.frames := rfl

@[simp] theorem State.modifyChannel_station (s : State) (c : Channel) (f : ChannelState → ChannelState) : (s.modifyChannel c f).station = s.station := rfl

@[simp] theorem State.modifyChannel_line (s : State) (c : Channel) (f : ChannelState → ChannelState) : (s.modifyChannel c f).line = s.line := rfl

@[simp] theorem State.modifyChannel_config (s : State) (c : Channel) (f : ChannelState → ChannelState) : (s.modifyChannel c f).config = s.config := rfl

@[simp] theorem State.modifyChannel_time (s : State) (c : Channel) (f : ChannelState → ChannelState) : (s.modifyChannel c f).time = s.time := rfl

@[simp] theorem State.modifyChannel_identity (s : State) (c : Channel) (f : ChannelState → ChannelState) : (s.modifyChannel c f).identity = s.identity := rfl

@[simp] theorem State.modifyChannel_rstnLow (s : State) (c : Channel) (f : ChannelState → ChannelState) : (s.modifyChannel c f).rstnLow = s.rstnLow := rfl

@[simp] theorem State.modifyChannel_ports (s : State) (c : Channel) (f : ChannelState → ChannelState) : (s.modifyChannel c f).ports = s.ports := rfl

@[simp] theorem State.modifyChannel_choices (s : State) (c : Channel) (f : ChannelState → ChannelState) : (s.modifyChannel c f).choices = s.choices := rfl

@[simp] theorem State.modifyChannel_pending (s : State) (c : Channel) (f : ChannelState → ChannelState) : (s.modifyChannel c f).pending = s.pending := rfl

/-! ### modifyStation -/

@[simp] theorem State.modifyStation_lease (s : State) (f : StationRecord → StationRecord) : (s.modifyStation f).lease = s.lease := rfl

@[simp] theorem State.modifyStation_frames (s : State) (f : StationRecord → StationRecord) : (s.modifyStation f).frames = s.frames := rfl

@[simp] theorem State.modifyStation_line (s : State) (f : StationRecord → StationRecord) : (s.modifyStation f).line = s.line := rfl

@[simp] theorem State.modifyStation_channels (s : State) (f : StationRecord → StationRecord) : (s.modifyStation f).channels = s.channels := rfl

@[simp] theorem State.modifyStation_config (s : State) (f : StationRecord → StationRecord) : (s.modifyStation f).config = s.config := rfl

@[simp] theorem State.modifyStation_time (s : State) (f : StationRecord → StationRecord) : (s.modifyStation f).time = s.time := rfl

@[simp] theorem State.modifyStation_identity (s : State) (f : StationRecord → StationRecord) : (s.modifyStation f).identity = s.identity := rfl

@[simp] theorem State.modifyStation_rstnLow (s : State) (f : StationRecord → StationRecord) : (s.modifyStation f).rstnLow = s.rstnLow := rfl

@[simp] theorem State.modifyStation_ports (s : State) (f : StationRecord → StationRecord) : (s.modifyStation f).ports = s.ports := rfl

@[simp] theorem State.modifyStation_choices (s : State) (f : StationRecord → StationRecord) : (s.modifyStation f).choices = s.choices := rfl

@[simp] theorem State.modifyStation_pending (s : State) (f : StationRecord → StationRecord) : (s.modifyStation f).pending = s.pending := rfl

/-! ### modifyLine -/

@[simp] theorem State.modifyLine_lease (s : State) (f : LineInterface → LineInterface) : (s.modifyLine f).lease = s.lease := rfl

@[simp] theorem State.modifyLine_frames (s : State) (f : LineInterface → LineInterface) : (s.modifyLine f).frames = s.frames := rfl

@[simp] theorem State.modifyLine_station (s : State) (f : LineInterface → LineInterface) : (s.modifyLine f).station = s.station := rfl

@[simp] theorem State.modifyLine_channels (s : State) (f : LineInterface → LineInterface) : (s.modifyLine f).channels = s.channels := rfl

@[simp] theorem State.modifyLine_config (s : State) (f : LineInterface → LineInterface) : (s.modifyLine f).config = s.config := rfl

@[simp] theorem State.modifyLine_time (s : State) (f : LineInterface → LineInterface) : (s.modifyLine f).time = s.time := rfl

@[simp] theorem State.modifyLine_identity (s : State) (f : LineInterface → LineInterface) : (s.modifyLine f).identity = s.identity := rfl

@[simp] theorem State.modifyLine_rstnLow (s : State) (f : LineInterface → LineInterface) : (s.modifyLine f).rstnLow = s.rstnLow := rfl

@[simp] theorem State.modifyLine_ports (s : State) (f : LineInterface → LineInterface) : (s.modifyLine f).ports = s.ports := rfl

@[simp] theorem State.modifyLine_choices (s : State) (f : LineInterface → LineInterface) : (s.modifyLine f).choices = s.choices := rfl

@[simp] theorem State.modifyLine_pending (s : State) (f : LineInterface → LineInterface) : (s.modifyLine f).pending = s.pending := rfl

/-! ### modifyFrames -/

@[simp] theorem State.modifyFrames_lease (s : State) (f : FrameProcessor → FrameProcessor) : (s.modifyFrames f).lease = s.lease := rfl

@[simp] theorem State.modifyFrames_station (s : State) (f : FrameProcessor → FrameProcessor) : (s.modifyFrames f).station = s.station := rfl

@[simp] theorem State.modifyFrames_line (s : State) (f : FrameProcessor → FrameProcessor) : (s.modifyFrames f).line = s.line := rfl

@[simp] theorem State.modifyFrames_channels (s : State) (f : FrameProcessor → FrameProcessor) : (s.modifyFrames f).channels = s.channels := rfl

@[simp] theorem State.modifyFrames_config (s : State) (f : FrameProcessor → FrameProcessor) : (s.modifyFrames f).config = s.config := rfl

@[simp] theorem State.modifyFrames_time (s : State) (f : FrameProcessor → FrameProcessor) : (s.modifyFrames f).time = s.time := rfl

@[simp] theorem State.modifyFrames_identity (s : State) (f : FrameProcessor → FrameProcessor) : (s.modifyFrames f).identity = s.identity := rfl

@[simp] theorem State.modifyFrames_rstnLow (s : State) (f : FrameProcessor → FrameProcessor) : (s.modifyFrames f).rstnLow = s.rstnLow := rfl

@[simp] theorem State.modifyFrames_ports (s : State) (f : FrameProcessor → FrameProcessor) : (s.modifyFrames f).ports = s.ports := rfl

@[simp] theorem State.modifyFrames_choices (s : State) (f : FrameProcessor → FrameProcessor) : (s.modifyFrames f).choices = s.choices := rfl

@[simp] theorem State.modifyFrames_pending (s : State) (f : FrameProcessor → FrameProcessor) : (s.modifyFrames f).pending = s.pending := rfl

/-! ### setSendList -/

@[simp] theorem State.setSendList_lease (s : State) (l : List SendItem) : (s.setSendList l).lease = s.lease := rfl

@[simp] theorem State.setSendList_station (s : State) (l : List SendItem) : (s.setSendList l).station = s.station := rfl

@[simp] theorem State.setSendList_line (s : State) (l : List SendItem) : (s.setSendList l).line = s.line := rfl

@[simp] theorem State.setSendList_channels (s : State) (l : List SendItem) : (s.setSendList l).channels = s.channels := rfl

@[simp] theorem State.setSendList_config (s : State) (l : List SendItem) : (s.setSendList l).config = s.config := rfl

@[simp] theorem State.setSendList_time (s : State) (l : List SendItem) : (s.setSendList l).time = s.time := rfl

@[simp] theorem State.setSendList_identity (s : State) (l : List SendItem) : (s.setSendList l).identity = s.identity := rfl

@[simp] theorem State.setSendList_rstnLow (s : State) (l : List SendItem) : (s.setSendList l).rstnLow = s.rstnLow := rfl

@[simp] theorem State.setSendList_ports (s : State) (l : List SendItem) : (s.setSendList l).ports = s.ports := rfl

@[simp] theorem State.setSendList_choices (s : State) (l : List SendItem) : (s.setSendList l).choices = s.choices := rfl

@[simp] theorem State.setSendList_pending (s : State) (l : List SendItem) : (s.setSendList l).pending = s.pending := rfl

/-! ### modifyConfig -/

@[simp] theorem State.modifyConfig_lease (s : State) (f : ConfigStore → ConfigStore) : (s.modifyConfig f).lease = s.lease := rfl

@[simp] theorem State.modifyConfig_frames (s : State) (f : ConfigStore → ConfigStore) : (s.modifyConfig f).frames = s.frames := rfl

@[simp] theorem State.modifyConfig_station (s : State) (f : ConfigStore → ConfigStore) : (s.modifyConfig f).station = s.station := rfl

@[simp] theorem State.modifyConfig_line (s : State) (f : ConfigStore → ConfigStore) : (s.modifyConfig f).line = s.line := rfl

@[simp] theorem State.modifyConfig_channels (s : State) (f : ConfigStore → ConfigStore) : (s.modifyConfig f).channels = s.channels := rfl

@[simp] theorem State.modifyConfig_time (s : State) (f : ConfigStore → ConfigStore) : (s.modifyConfig f).time = s.time := rfl

@[simp] theorem State.modifyConfig_identity (s : State) (f : ConfigStore → ConfigStore) : (s.modifyConfig f).identity = s.identity := rfl

@[simp] theorem State.modifyConfig_rstnLow (s : State) (f : ConfigStore → ConfigStore) : (s.modifyConfig f).rstnLow = s.rstnLow := rfl

@[simp] theorem State.modifyConfig_ports (s : State) (f : ConfigStore → ConfigStore) : (s.modifyConfig f).ports = s.ports := rfl

@[simp] theorem State.modifyConfig_choices (s : State) (f : ConfigStore → ConfigStore) : (s.modifyConfig f).choices = s.choices := rfl

@[simp] theorem State.modifyConfig_pending (s : State) (f : ConfigStore → ConfigStore) : (s.modifyConfig f).pending = s.pending := rfl

/-! ### The parts of the block an update belongs to -/

@[simp] theorem State.setWaiting_lease_waiting (s : State) (w : List EntryIx) : (s.setWaiting w).lease.waiting = w := rfl

@[simp] theorem State.setWaiting_lease_entries (s : State) (w : List EntryIx) : (s.setWaiting w).lease.entries = s.lease.entries := rfl

@[simp] theorem State.setWaiting_lease_taken (s : State) (w : List EntryIx) : (s.setWaiting w).lease.taken = s.lease.taken := rfl

@[simp] theorem State.setWaiting_lease_changes (s : State) (w : List EntryIx) : (s.setWaiting w).lease.changes = s.lease.changes := rfl

@[simp] theorem State.setTaken_lease_taken (s : State) (x : StationState) : (s.setTaken x).lease.taken = x := rfl

@[simp] theorem State.setTaken_lease_entries (s : State) (x : StationState) : (s.setTaken x).lease.entries = s.lease.entries := rfl

@[simp] theorem State.setTaken_lease_waiting (s : State) (x : StationState) : (s.setTaken x).lease.waiting = s.lease.waiting := rfl

@[simp] theorem State.setTaken_lease_changes (s : State) (x : StationState) : (s.setTaken x).lease.changes = s.lease.changes := rfl

@[simp] theorem State.setChanges_lease_changes (s : State) (cs : List StationState) : (s.setChanges cs).lease.changes = cs := rfl

@[simp] theorem State.setChanges_lease_entries (s : State) (cs : List StationState) : (s.setChanges cs).lease.entries = s.lease.entries := rfl

@[simp] theorem State.setChanges_lease_waiting (s : State) (cs : List StationState) : (s.setChanges cs).lease.waiting = s.lease.waiting := rfl

@[simp] theorem State.setChanges_lease_taken (s : State) (cs : List StationState) : (s.setChanges cs).lease.taken = s.lease.taken := rfl

@[simp] theorem State.setEntry_lease_waiting (s : State) (i : EntryIx) (e : Entry) : (s.setEntry i e).lease.waiting = s.lease.waiting := rfl

@[simp] theorem State.setEntry_lease_taken (s : State) (i : EntryIx) (e : Entry) : (s.setEntry i e).lease.taken = s.lease.taken := rfl

@[simp] theorem State.setEntry_lease_changes (s : State) (i : EntryIx) (e : Entry) : (s.setEntry i e).lease.changes = s.lease.changes := rfl

@[simp] theorem State.modifyTenancy_lease_waiting (s : State) (i : EntryIx) (f : Tenancy → Tenancy) : (s.modifyTenancy i f).lease.waiting = s.lease.waiting := rfl

@[simp] theorem State.modifyTenancy_lease_taken (s : State) (i : EntryIx) (f : Tenancy → Tenancy) : (s.modifyTenancy i f).lease.taken = s.lease.taken := rfl

@[simp] theorem State.modifyTenancy_lease_changes (s : State) (i : EntryIx) (f : Tenancy → Tenancy) : (s.modifyTenancy i f).lease.changes = s.lease.changes := rfl

@[simp] theorem State.setSendList_frames_sendList (s : State) (l : List SendItem) : (s.setSendList l).frames.sendList = l := rfl

@[simp] theorem State.setSendList_frames_serial (s : State) (l : List SendItem) : (s.setSendList l).frames.serial = s.frames.serial := rfl

@[simp] theorem State.setSendList_frames_arrivals (s : State) (l : List SendItem) : (s.setSendList l).frames.arrivals = s.frames.arrivals := rfl

@[simp] theorem State.modifyStation_station (s : State) (f : StationRecord → StationRecord) : (s.modifyStation f).station = f s.station := rfl

@[simp] theorem State.modifyLine_line (s : State) (f : LineInterface → LineInterface) : (s.modifyLine f).line = f s.line := rfl

@[simp] theorem State.modifyFrames_frames (s : State) (f : FrameProcessor → FrameProcessor) : (s.modifyFrames f).frames = f s.frames := rfl

@[simp] theorem State.modifyConfig_config (s : State) (f : ConfigStore → ConfigStore) : (s.modifyConfig f).config = f s.config := rfl

/-! ### Entries and channels -/

@[simp] theorem State.setWaiting_entry (s : State) (w : List EntryIx) (j : EntryIx) : (s.setWaiting w).entry j = s.entry j := rfl

@[simp] theorem State.setWaiting_tenancy (s : State) (w : List EntryIx) (j : EntryIx) : (s.setWaiting w).tenancy j = s.tenancy j := rfl

@[simp] theorem State.setTaken_entry (s : State) (x : StationState) (j : EntryIx) : (s.setTaken x).entry j = s.entry j := rfl

@[simp] theorem State.setTaken_tenancy (s : State) (x : StationState) (j : EntryIx) : (s.setTaken x).tenancy j = s.tenancy j := rfl

@[simp] theorem State.setChanges_entry (s : State) (cs : List StationState) (j : EntryIx) : (s.setChanges cs).entry j = s.entry j := rfl

@[simp] theorem State.setChanges_tenancy (s : State) (cs : List StationState) (j : EntryIx) : (s.setChanges cs).tenancy j = s.tenancy j := rfl

@[simp] theorem State.modifyChannel_entry (s : State) (c : Channel) (f : ChannelState → ChannelState) (j : EntryIx) : (s.modifyChannel c f).entry j = s.entry j := rfl

@[simp] theorem State.modifyChannel_tenancy (s : State) (c : Channel) (f : ChannelState → ChannelState) (j : EntryIx) : (s.modifyChannel c f).tenancy j = s.tenancy j := rfl

@[simp] theorem State.modifyStation_entry (s : State) (f : StationRecord → StationRecord) (j : EntryIx) : (s.modifyStation f).entry j = s.entry j := rfl

@[simp] theorem State.modifyStation_tenancy (s : State) (f : StationRecord → StationRecord) (j : EntryIx) : (s.modifyStation f).tenancy j = s.tenancy j := rfl

@[simp] theorem State.modifyLine_entry (s : State) (f : LineInterface → LineInterface) (j : EntryIx) : (s.modifyLine f).entry j = s.entry j := rfl

@[simp] theorem State.modifyLine_tenancy (s : State) (f : LineInterface → LineInterface) (j : EntryIx) : (s.modifyLine f).tenancy j = s.tenancy j := rfl

@[simp] theorem State.modifyFrames_entry (s : State) (f : FrameProcessor → FrameProcessor) (j : EntryIx) : (s.modifyFrames f).entry j = s.entry j := rfl

@[simp] theorem State.modifyFrames_tenancy (s : State) (f : FrameProcessor → FrameProcessor) (j : EntryIx) : (s.modifyFrames f).tenancy j = s.tenancy j := rfl

@[simp] theorem State.setSendList_entry (s : State) (l : List SendItem) (j : EntryIx) : (s.setSendList l).entry j = s.entry j := rfl

@[simp] theorem State.setSendList_tenancy (s : State) (l : List SendItem) (j : EntryIx) : (s.setSendList l).tenancy j = s.tenancy j := rfl

@[simp] theorem State.modifyConfig_entry (s : State) (f : ConfigStore → ConfigStore) (j : EntryIx) : (s.modifyConfig f).entry j = s.entry j := rfl

@[simp] theorem State.modifyConfig_tenancy (s : State) (f : ConfigStore → ConfigStore) (j : EntryIx) : (s.modifyConfig f).tenancy j = s.tenancy j := rfl

@[simp] theorem State.setEntry_channel (s : State) (i : EntryIx) (e : Entry) (d : Channel) : (s.setEntry i e).channel d = s.channel d := rfl

@[simp] theorem State.modifyTenancy_channel (s : State) (i : EntryIx) (f : Tenancy → Tenancy) (d : Channel) : (s.modifyTenancy i f).channel d = s.channel d := rfl

@[simp] theorem State.setWaiting_channel (s : State) (w : List EntryIx) (d : Channel) : (s.setWaiting w).channel d = s.channel d := rfl

@[simp] theorem State.setTaken_channel (s : State) (x : StationState) (d : Channel) : (s.setTaken x).channel d = s.channel d := rfl

@[simp] theorem State.setChanges_channel (s : State) (cs : List StationState) (d : Channel) : (s.setChanges cs).channel d = s.channel d := rfl

@[simp] theorem State.modifyStation_channel (s : State) (f : StationRecord → StationRecord) (d : Channel) : (s.modifyStation f).channel d = s.channel d := rfl

@[simp] theorem State.modifyLine_channel (s : State) (f : LineInterface → LineInterface) (d : Channel) : (s.modifyLine f).channel d = s.channel d := rfl

@[simp] theorem State.modifyFrames_channel (s : State) (f : FrameProcessor → FrameProcessor) (d : Channel) : (s.modifyFrames f).channel d = s.channel d := rfl

@[simp] theorem State.setSendList_channel (s : State) (l : List SendItem) (d : Channel) : (s.setSendList l).channel d = s.channel d := rfl

@[simp] theorem State.modifyConfig_channel (s : State) (f : ConfigStore → ConfigStore) (d : Channel) : (s.modifyConfig f).channel d = s.channel d := rfl

theorem State.setEntry_entry (s : State) (i j : EntryIx) (e : Entry) :
    (s.setEntry i e).entry j = if i = j then e else s.entry j := by
  simp only [State.entry, State.setEntry, Vector.get_eq_getElem, Vector.getElem_set, Fin.ext_iff]

@[simp] theorem State.setEntry_entry_same (s : State) (i : EntryIx) (e : Entry) : (s.setEntry i e).entry i = e := by
  simp [State.setEntry_entry]

theorem State.setEntry_tenancy (s : State) (i j : EntryIx) (e : Entry) :
    (s.setEntry i e).tenancy j = if i = j then e.tenancy else s.tenancy j := by
  unfold State.tenancy; rw [State.setEntry_entry]; split <;> rfl

@[simp] theorem State.setEntry_tenancy_same (s : State) (i : EntryIx) (e : Entry) :
    (s.setEntry i e).tenancy i = e.tenancy := by
  simp [State.setEntry_tenancy]

theorem State.modifyTenancy_tenancy (s : State) (i j : EntryIx) (f : Tenancy → Tenancy) :
    (s.modifyTenancy i f).tenancy j = if i = j then (s.tenancy i).map f else s.tenancy j := by
  simp [State.modifyTenancy, State.setEntry_tenancy]

@[simp] theorem State.modifyTenancy_tenancy_same (s : State) (i : EntryIx) (f : Tenancy → Tenancy) :
    (s.modifyTenancy i f).tenancy i = (s.tenancy i).map f := by
  simp [State.modifyTenancy_tenancy]

@[simp] theorem State.modifyTenancy_generation (s : State) (i j : EntryIx) (f : Tenancy → Tenancy) :
    ((s.modifyTenancy i f).entry j).generation = (s.entry j).generation := by
  simp only [State.modifyTenancy, State.setEntry_entry]; split <;> simp_all

theorem State.modifyChannel_channel (s : State) (c d : Channel) (f : ChannelState → ChannelState) :
    (s.modifyChannel c f).channel d = if c = d then f (s.channel c) else s.channel d := by
  simp only [State.channel, State.modifyChannel, Vector.get_eq_getElem, Vector.getElem_set, Fin.ext_iff]

@[simp] theorem State.modifyChannel_channel_same (s : State) (c : Channel) (f : ChannelState → ChannelState) :
    (s.modifyChannel c f).channel c = f (s.channel c) := by
  simp [State.modifyChannel_channel]

/-! ### What is read of all entries together -/

/-- The readings of the Lease Table that look at tenancies alone depend on the tenancies alone. -/
theorem State.entryMeets_congr {s t : State} {i : EntryIx} (h : t.tenancy i = s.tenancy i) (p : Tenancy → Bool) :
    t.entryMeets p i = s.entryMeets p i := by
  simp [State.entryMeets, h]

theorem State.anyOn_congr {s t : State} (h : ∀ i, t.tenancy i = s.tenancy i) (tag : Tag) (p : Tenancy → Bool) :
    t.anyOn tag p = s.anyOn tag p := by
  have e : t.onTag tag p = s.onTag tag p := by
    funext i; simp [State.onTag, State.entryMeets, h]
  simp [State.anyOn, e]

theorem State.waitList_congr {s t : State} (h : ∀ i, t.tenancy i = s.tenancy i)
    (hw : t.lease.waiting = s.lease.waiting) (tag : Tag) : t.waitList tag = s.waitList tag := by
  have e : ∀ p, t.onTag tag p = s.onTag tag p := fun p => by
    funext i; simp [State.onTag, State.entryMeets, h]
  simp [State.waitList, e, hw]

theorem State.entryMeets_iff {s : State} {p : Tenancy → Bool} {i : EntryIx} :
    s.entryMeets p i = true ↔ ∃ t, s.tenancy i = some t ∧ p t = true := by
  unfold State.entryMeets; split <;> simp_all

theorem State.onTag_iff {s : State} {tag : Tag} {p : Tenancy → Bool} {i : EntryIx} :
    s.onTag tag p i = true ↔ ∃ t, s.tenancy i = some t ∧ t.tag = tag ∧ p t = true := by
  simp [State.onTag, State.entryMeets_iff]

theorem State.anyOn_iff {s : State} {tag : Tag} {p : Tenancy → Bool} :
    s.anyOn tag p = true ↔ ∃ i t, s.tenancy i = some t ∧ t.tag = tag ∧ p t = true := by
  simp [State.anyOn, allIx, State.onTag_iff]

/-- A member of a wait list is QUEUED_LOCAL on its tag (R16). -/
theorem State.mem_waitList {s : State} {tag : Tag} {i : EntryIx} :
    i ∈ s.waitList tag ↔ i ∈ s.lease.waiting ∧ ∃ t, s.tenancy i = some t ∧ t.tag = tag ∧ t.isQueued = true := by
  simp [State.waitList, State.onTag_iff]

end Sys2Proof.Machine
end

