-- ==== Sys2Proof/Laws/Ops.lean ====
section
/-! SUPPORT. What each shared operation of the Lease Table and the Event Block can do, said once: which parts of the block it
leaves alone, and what becomes of the entries. -/

namespace Sys2Proof.Machine

/-! ### Updates combined -/

theorem State.setEntry_self (s : State) (i : EntryIx) : s.setEntry i (s.entry i) = s := by
  have : s.lease.entries.set i.val (s.entry i) i.isLt = s.lease.entries := by
    simp [State.entry, Vector.get_eq_getElem]
  simp [State.setEntry, this]

theorem State.setEntry_setEntry (s : State) (i : EntryIx) (e e' : Entry) :
    (s.setEntry i e).setEntry i e' = s.setEntry i e' := by
  simp [State.setEntry]

/-- On an entry with a tenancy, a change of the tenancy replaces the entry. -/
theorem State.modifyTenancy_of_some {s : State} {i : EntryIx} {t : Tenancy} (h : s.tenancy i = some t)
    (f : Tenancy → Tenancy) :
    s.modifyTenancy i f = s.setEntry i { generation := (s.entry i).generation, tenancy := some (f t) } := by
  simp [State.modifyTenancy, h]

/-- On a FREE entry, a change of the tenancy changes nothing. -/
theorem State.modifyTenancy_of_none {s : State} {i : EntryIx} (h : s.tenancy i = none) (f : Tenancy → Tenancy) :
    s.modifyTenancy i f = s := by
  have e : (s.entry i) = { generation := (s.entry i).generation, tenancy := none } := by
    simp [State.tenancy] at h; rw [← h]
  have := s.setEntry_self i
  rw [e] at this
  simpa [State.modifyTenancy, h] using this

theorem State.modifyTenancy_modifyTenancy (s : State) (i : EntryIx) (f g : Tenancy → Tenancy) :
    (s.modifyTenancy i f).modifyTenancy i g = s.modifyTenancy i (g ∘ f) := by
  simp [State.modifyTenancy, State.setEntry_setEntry, Option.map_map]

theorem State.modifyChannel_modifyChannel (s : State) (c : Channel) (f g : ChannelState → ChannelState) :
    (s.modifyChannel c f).modifyChannel c g = s.modifyChannel c (g ∘ f) := by
  simp [State.modifyChannel, State.channel, Vector.get_eq_getElem]

/-- A change that changes nothing at the channel as it stands changes nothing. -/
theorem State.modifyChannel_self {s : State} {c : Channel} {f : ChannelState → ChannelState}
    (h : f (s.channel c) = s.channel c) : s.modifyChannel c f = s := by
  have : s.channels.set c.val (s.channel c) c.isLt = s.channels := by
    simp [State.channel, Vector.get_eq_getElem]
  simp [State.modifyChannel, h, this]

/-- Two changes that agree at the channel as it stands agree. -/
theorem State.modifyChannel_congr {s : State} {c : Channel} {f g : ChannelState → ChannelState}
    (h : f (s.channel c) = g (s.channel c)) : s.modifyChannel c f = s.modifyChannel c g := by
  simp [State.modifyChannel, h]

/-! ### What the Lease Table and the Event Block leave alone -/

/-- The state differs in the entries' tenancies, the wait lists, the send list and the event state of the channels alone, and
no FREE entry has been opened: what every operation over entries and notices does. -/
structure State.LeaseWork (s t : State) : Prop where
  station : t.station = s.station
  line : t.line = s.line
  config : t.config = s.config
  time : t.time = s.time
  identity : t.identity = s.identity
  rstnLow : t.rstnLow = s.rstnLow
  ports : t.ports = s.ports
  choices : t.choices = s.choices
  pending : t.pending = s.pending
  serial : t.frames.serial = s.frames.serial
  arrivals : t.frames.arrivals = s.frames.arrivals
  taken : t.lease.taken = s.lease.taken
  changes : t.lease.changes = s.lease.changes
  generation : ∀ i, (t.entry i).generation = (s.entry i).generation
  free : ∀ i, s.tenancy i = none → t.tenancy i = none
  reads : ∀ c, (t.channel c).slot = (s.channel c).slot ∧ (t.channel c).portError = (s.channel c).portError ∧
    (t.channel c).readCopy = (s.channel c).readCopy
  fixed : ∀ i u, t.tenancy i = some u → ∃ v, s.tenancy i = some v ∧ u.owner = v.owner ∧ u.tag = v.tag ∧ u.mode = v.mode ∧
    u.priority = v.priority ∧ u.attemptLimit = v.attemptLimit ∧ u.attempts = v.attempts ∧ u.term = v.term

theorem State.LeaseWork.refl (s : State) : s.LeaseWork s :=
  ⟨rfl, rfl, rfl, rfl, rfl, rfl, rfl, rfl, rfl, rfl, rfl, rfl, rfl, fun _ => rfl, fun _ h => h, fun _ => ⟨rfl, rfl, rfl⟩,
    fun _ u h => ⟨u, h, rfl, rfl, rfl, rfl, rfl, rfl, rfl⟩⟩

theorem State.LeaseWork.trans {s t u : State} (h : s.LeaseWork t) (k : t.LeaseWork u) : s.LeaseWork u where
  station := k.station.trans h.station
  line := k.line.trans h.line
  config := k.config.trans h.config
  time := k.time.trans h.time
  identity := k.identity.trans h.identity
  rstnLow := k.rstnLow.trans h.rstnLow
  ports := k.ports.trans h.ports
  choices := k.choices.trans h.choices
  pending := k.pending.trans h.pending
  serial := k.serial.trans h.serial
  arrivals := k.arrivals.trans h.arrivals
  taken := k.taken.trans h.taken
  changes := k.changes.trans h.changes
  generation := fun i => (k.generation i).trans (h.generation i)
  free := fun i hi => k.free i (h.free i hi)
  reads := fun c => ⟨(k.reads c).1.trans (h.reads c).1, (k.reads c).2.1.trans (h.reads c).2.1,
    (k.reads c).2.2.trans (h.reads c).2.2⟩
  fixed := fun i u hu => by
    obtain ⟨v, hv, a⟩ := k.fixed i u hu
    obtain ⟨w, hw, b⟩ := h.fixed i v hv
    exact ⟨w, hw, a.1.trans b.1, a.2.1.trans b.2.1, a.2.2.1.trans b.2.2.1, a.2.2.2.1.trans b.2.2.2.1,
      a.2.2.2.2.1.trans b.2.2.2.2.1, a.2.2.2.2.2.1.trans b.2.2.2.2.2.1, a.2.2.2.2.2.2.trans b.2.2.2.2.2.2⟩

/-- A change of a tenancy that keeps its fixed fields. -/
theorem State.leaseWork_modifyTenancy (s : State) (i : EntryIx) (f : Tenancy → Tenancy)
    (hf : ∀ v, (f v).owner = v.owner ∧ (f v).tag = v.tag ∧ (f v).mode = v.mode ∧ (f v).priority = v.priority ∧
      (f v).attemptLimit = v.attemptLimit ∧ (f v).attempts = v.attempts ∧ (f v).term = v.term) :
    s.LeaseWork (s.modifyTenancy i f) where
  station := rfl
  line := rfl
  config := rfl
  time := rfl
  identity := rfl
  rstnLow := rfl
  ports := rfl
  choices := rfl
  pending := rfl
  serial := rfl
  arrivals := rfl
  taken := rfl
  changes := rfl
  generation := by simp
  free := fun j hj => by
    rw [State.modifyTenancy_tenancy]; split
    · subst i; simp [hj]
    · exact hj
  reads := by simp
  fixed := fun j u hu => by
    rw [State.modifyTenancy_tenancy] at hu; split at hu
    · subst i; simp only [Option.map_eq_some_iff] at hu; obtain ⟨v, hv, rfl⟩ := hu; exact ⟨v, hv, hf v⟩
    · exact ⟨u, hu, by simp⟩

/-- An entry made FREE with its generation kept. -/
theorem State.leaseWork_free (s : State) (i : EntryIx) :
    s.LeaseWork (s.setEntry i { generation := (s.entry i).generation, tenancy := none }) where
  station := rfl
  line := rfl
  config := rfl
  time := rfl
  identity := rfl
  rstnLow := rfl
  ports := rfl
  choices := rfl
  pending := rfl
  serial := rfl
  arrivals := rfl
  taken := rfl
  changes := rfl
  generation := fun j => by rw [State.setEntry_entry]; split <;> simp_all
  free := fun j hj => by rw [State.setEntry_tenancy]; split <;> simp_all
  reads := by simp
  fixed := fun j u hu => by
    rw [State.setEntry_tenancy] at hu; split at hu
    · simp at hu
    · exact ⟨u, hu, by simp⟩

theorem State.leaseWork_setWaiting (s : State) (w : List EntryIx) : s.LeaseWork (s.setWaiting w) :=
  ⟨rfl, rfl, rfl, rfl, rfl, rfl, rfl, rfl, rfl, rfl, rfl, rfl, rfl, fun _ => rfl, fun _ h => h, fun _ => ⟨rfl, rfl, rfl⟩,
    fun _ u h => ⟨u, h, rfl, rfl, rfl, rfl, rfl, rfl, rfl⟩⟩

theorem State.leaseWork_setSendList (s : State) (l : List SendItem) : s.LeaseWork (s.setSendList l) :=
  ⟨rfl, rfl, rfl, rfl, rfl, rfl, rfl, rfl, rfl, rfl, rfl, rfl, rfl, fun _ => rfl, fun _ h => h, fun _ => ⟨rfl, rfl, rfl⟩,
    fun _ u h => ⟨u, h, rfl, rfl, rfl, rfl, rfl, rfl, rfl⟩⟩

/-- A change of a channel's event state. -/
theorem State.leaseWork_modifyChannel (s : State) (c : Channel) (f : ChannelState → ChannelState)
    (hf : ∀ x, (f x).slot = x.slot ∧ (f x).portError = x.portError ∧ (f x).readCopy = x.readCopy) :
    s.LeaseWork (s.modifyChannel c f) where
  station := rfl
  line := rfl
  config := rfl
  time := rfl
  identity := rfl
  rstnLow := rfl
  ports := rfl
  choices := rfl
  pending := rfl
  serial := rfl
  arrivals := rfl
  taken := rfl
  changes := rfl
  generation := by simp
  free := by simp
  reads := fun d => by
    rw [State.modifyChannel_channel]; split
    · subst c; exact hf _
    · simp
  fixed := fun _ u h => ⟨u, h, rfl, rfl, rfl, rfl, rfl, rfl, rfl⟩

/-! ### Notices -/

@[simp] theorem ChannelState.enqueue_ports (c : ChannelState) (r : EventRecord) :
    (c.enqueue r).slot = c.slot ∧ (c.enqueue r).portError = c.portError ∧ (c.enqueue r).readCopy = c.readCopy :=
  ⟨rfl, rfl, rfl⟩

@[simp] theorem ChannelState.defer_ports (c : ChannelState) (x : DeferralItem) :
    (c.defer x).slot = c.slot ∧ (c.defer x).portError = c.portError ∧ (c.defer x).readCopy = c.readCopy :=
  ⟨rfl, rfl, rfl⟩

/-- A station event raised touches the event state alone. -/
theorem ChannelState.raise_ports (c : ChannelState) (cls : EventClass) (r : EventRecord) :
    (c.raise cls r).slot = c.slot ∧ (c.raise cls r).portError = c.portError ∧ (c.raise cls r).readCopy = c.readCopy := by
  unfold ChannelState.raise ChannelState.suppress
  split
  · simp
  · split <;> simp

theorem State.raiseLease_work (s : State) (i : EntryIx) (kind : LeaseKind) (marks : Marks) :
    s.LeaseWork (s.raiseLease i kind marks) := by
  unfold State.raiseLease
  split
  · exact .refl s
  · split
    · exact s.leaseWork_modifyChannel _ _ (by simp)
    · split
      · exact (s.leaseWork_modifyTenancy _ _ (by simp)).trans (State.leaseWork_modifyChannel _ _ _ (by simp))
      · exact s.leaseWork_modifyTenancy _ _ (by simp)

theorem State.raiseStation_work (s : State) (c : RoutingClass) (r : EventRecord) : s.LeaseWork (s.raiseStation c r) :=
  s.leaseWork_modifyChannel _ _ fun x => x.raise_ports _ _

theorem State.raiseVoid_work (s : State) (c : Channel) : s.LeaseWork (s.raiseVoid c) :=
  s.leaseWork_modifyChannel _ _ fun x => x.raise_ports _ _

theorem State.discardDeferred_work (s : State) (i : EntryIx) : s.LeaseWork (s.discardDeferred i) := by
  unfold State.discardDeferred
  split
  · exact .refl s
  · split
    · exact .refl s
    · exact (s.leaseWork_modifyTenancy _ _ (by simp)).trans (State.leaseWork_modifyChannel _ _ _ (by simp))

/-- A station event raised changes no entry. -/
@[simp] theorem State.raiseStation_tenancy (s : State) (c : RoutingClass) (r : EventRecord) (j : EntryIx) :
    (s.raiseStation c r).tenancy j = s.tenancy j := rfl

/-- A lease notice raised changes at most the slot of its own entry. -/
theorem State.raiseLease_tenancy (s : State) (i j : EntryIx) (kind : LeaseKind) (marks : Marks) :
    ∃ d, (s.raiseLease i kind marks).tenancy j =
        (s.tenancy j).map (fun t => { t with deferred := if j = i then d else t.deferred }) ∧
      ∀ t, s.tenancy i = some t → t.deferred ≠ none → d ≠ none := by
  unfold State.raiseLease
  split
  · next h => exact ⟨none, by by_cases e : j = i <;> simp_all⟩
  · next t h =>
    split
    · exact ⟨t.deferred, by
        by_cases e : j = i
        · subst e; simp [h]
        · simp [e], by simp_all⟩
    · split
      · next hd =>
        refine ⟨some (s.noticeOf i t kind marks), ?_, by simp⟩
        by_cases e : j = i
        · subst e; simp [h]
        · simp [State.modifyTenancy_tenancy, Ne.symm e, e]
      · next held hd =>
        refine ⟨some (held.combine (s.noticeOf i t kind marks)), ?_, by simp⟩
        by_cases e : j = i
        · subst e; simp [h]
        · simp [State.modifyTenancy_tenancy, Ne.symm e, e]

@[simp] theorem State.raiseLease_waiting (s : State) (i : EntryIx) (kind : LeaseKind) (marks : Marks) :
    (s.raiseLease i kind marks).lease.waiting = s.lease.waiting := by
  unfold State.raiseLease; repeat' split
  all_goals rfl

@[simp] theorem State.raiseLease_frames (s : State) (i : EntryIx) (kind : LeaseKind) (marks : Marks) :
    (s.raiseLease i kind marks).frames = s.frames := by
  unfold State.raiseLease; repeat' split
  all_goals rfl

/-! ### Tenancies -/

theorem State.endTenancy_work (s : State) (i : EntryIx) : s.LeaseWork (s.endTenancy i) := by
  have base : s.LeaseWork ((s.dropItem i).leaveWaiting i) :=
    (s.leaseWork_setSendList _).trans (State.leaseWork_setWaiting _ _)
  unfold State.endTenancy
  split
  · exact base
  · split
    · exact base.trans (State.leaseWork_free _ i)
    · exact base.trans (State.leaseWork_modifyTenancy _ _ _ (by simp))

/-- The end of a tenancy: the entry becomes FREE, or CLOSING with every other field kept; the other entries stay (R9). -/
theorem State.endTenancy_tenancy (s : State) (i j : EntryIx) :
    (s.endTenancy i).tenancy j =
      if j = i then (s.tenancy i).bind fun t => if t.deferred = none then none else some { t with state := .closing }
      else s.tenancy j := by
  unfold State.endTenancy
  by_cases e : j = i
  · subst e
    split
    · next h => simp [State.leaveWaiting, State.dropItem, h]
    · next t h => split <;> simp_all [State.leaveWaiting, State.dropItem]
  · split
    · simp [e, State.leaveWaiting, State.dropItem]
    · split <;> simp [e, Ne.symm e, State.setEntry_tenancy, State.modifyTenancy_tenancy, State.leaveWaiting,
        State.dropItem]

@[simp] theorem State.endTenancy_waiting (s : State) (i : EntryIx) :
    (s.endTenancy i).lease.waiting = s.lease.waiting.filter (· != i) := by
  unfold State.endTenancy; repeat' split
  all_goals rfl

@[simp] theorem State.endTenancy_sendList (s : State) (i : EntryIx) :
    (s.endTenancy i).frames.sendList = s.frames.sendList.filter fun x => !x.isOf i := by
  unfold State.endTenancy; repeat' split
  all_goals rfl

@[simp] theorem State.endTenancy_channels (s : State) (i : EntryIx) : (s.endTenancy i).channels = s.channels := by
  unfold State.endTenancy; repeat' split
  all_goals rfl

theorem State.detach_work (s : State) (i : EntryIx) : s.LeaseWork (s.detach i) :=
  s.leaseWork_modifyTenancy _ _ (by simp)

theorem State.leaveWaiting_work (s : State) (i : EntryIx) : s.LeaseWork (s.leaveWaiting i) := s.leaseWork_setWaiting _

theorem State.enterClaiming_work (s : State) (i : EntryIx) : s.LeaseWork (s.enterClaiming i) :=
  (s.leaseWork_modifyTenancy _ _ (by simp)).trans (State.leaseWork_setSendList _ _)

theorem State.enterReleasing_work (s : State) (i : EntryIx) : s.LeaseWork (s.enterReleasing i) :=
  (s.leaseWork_modifyTenancy _ _ (by simp)).trans (State.leaseWork_setSendList _ _)

theorem State.grant_work (s : State) (i : EntryIx) (handedOn : Bool) : s.LeaseWork (s.grant i handedOn) := by
  unfold State.grant
  split
  · exact .refl s
  · exact (s.leaseWork_modifyTenancy _ _ (by simp [Tenancy.enterHeld])).trans (State.raiseLease_work _ _ _ _)

theorem State.deny_work (s : State) (i : EntryIx) (cause : DenyCause) (objector : Option StationNo) :
    s.LeaseWork (s.deny i cause objector) := by
  unfold State.deny
  split
  · exact .refl s
  · exact (s.raiseLease_work _ _ _).trans (State.endTenancy_work _ _)

/-- A grant makes the entry HELD for its term with its flags clear, its slot apart, and changes no other entry (R6, R36). -/
theorem State.grant_tenancy (s : State) (i j : EntryIx) (handedOn : Bool) :
    ∃ d, (s.grant i handedOn).tenancy j =
      if j = i then (s.tenancy i).map (fun t => { t.enterHeld with deferred := d }) else s.tenancy j := by
  unfold State.grant
  split
  · next h => exact ⟨none, by by_cases e : j = i <;> simp_all⟩
  · next t h =>
    obtain ⟨d, hd, -⟩ := (s.modifyTenancy i Tenancy.enterHeld).raiseLease_tenancy i j (.granted t.mode)
      { handedOn := handedOn }
    refine ⟨d, hd.trans ?_⟩
    by_cases e : j = i
    · subst e; simp [h]
    · simp [State.modifyTenancy_tenancy, Ne.symm e, e]

@[simp] theorem State.grant_waiting (s : State) (i : EntryIx) (handedOn : Bool) :
    (s.grant i handedOn).lease.waiting = s.lease.waiting := by
  unfold State.grant; split <;> simp

@[simp] theorem State.grant_frames (s : State) (i : EntryIx) (handedOn : Bool) :
    (s.grant i handedOn).frames = s.frames := by
  unfold State.grant; split <;> simp

/-- A denial sends the entry to FREE or to CLOSING, and changes no other entry (R9, R39). -/
theorem State.deny_tenancy (s : State) (i j : EntryIx) (cause : DenyCause) (objector : Option StationNo) :
    (j ≠ i → (s.deny i cause objector).tenancy j = s.tenancy j) ∧
      ∀ u, (s.deny i cause objector).tenancy i = some u →
        ∃ t d, s.tenancy i = some t ∧ u = { t with state := .closing, deferred := some d } := by
  unfold State.deny
  split
  · next h => exact ⟨fun _ => rfl, by simp [h]⟩
  · next t h =>
    obtain ⟨d, hd, -⟩ := s.raiseLease_tenancy i i (.denied cause objector t.attempts) {}
    constructor
    · intro e
      obtain ⟨d', hd', -⟩ := s.raiseLease_tenancy i j (.denied cause objector t.attempts) {}
      simp only [State.endTenancy_tenancy, e, if_false, hd']
      simp
    · intro u hu
      simp only [State.endTenancy_tenancy, if_true, hd, h, Option.map_some, Option.bind_some] at hu
      cases d with
      | none => simp at hu
      | some n => simp at hu; exact ⟨t, n, h, hu.symm⟩

@[simp] theorem State.deny_sendList_le (s : State) (i : EntryIx) (cause : DenyCause) (objector : Option StationNo)
    (x : SendItem) (h : x ∈ (s.deny i cause objector).frames.sendList) : x ∈ s.frames.sendList := by
  unfold State.deny at h
  split at h
  · exact h
  · simp only [State.endTenancy_sendList, State.raiseLease_frames, List.mem_filter] at h; exact h.1

end Sys2Proof.Machine
end

