-- ==== Sys2Proof/Laws/Operands.lean ====
section
/-! SUPPORT. The checks that commands compute, in the words of the rules: windows, ranges, CLAIM's six checks, the cases of
acceptance, room in a queue, and handles. -/

namespace Sys2Proof.Machine

/-! ### CLAIM's checks (R151, R152, R171) -/

theorem Window.covers_iff (w : Window) (tag : Tag) :
    w.covers tag = true ↔ ∀ b, w.mask.getLsbD b = true → tag.getLsbD b = w.value.getLsbD b := by
  simp only [Window.covers, beq_iff_eq, BitVec.eq_of_getLsbD_eq_iff]
  constructor
  · intro h b hb
    have hlt : b < 24 := by
      by_contra hc
      rw [BitVec.getLsbD_of_ge _ _ (by omega)] at hb
      simp at hb
    have := h b hlt
    simp [hb] at this
    simpa using this
  · intro h b hb
    cases hm : w.mask.getLsbD b
    · simp [hm]
    · simp [hm, h b hm]

theorem Window.permits_iff (w : Window) (tag : Tag) (m : Mode) : w.permits tag m = true ↔ w.Allows tag m := by
  cases m <;> simp [Window.permits, Window.Allows, Window.grants, Window.covers_iff, and_assoc]

theorem State.windowsPermit_iff (s : State) (ch : Channel) (tag : Tag) (m : Mode) :
    s.windowsPermit ch tag m = true ↔ s.WindowAllows ch tag m := by
  simp [State.windowsPermit, State.WindowAllows, Window.permits_iff]

theorem State.hasAttached_iff (s : State) (ch : Channel) (tag : Tag) : s.hasAttached ch tag = true ↔ s.AttachedOn ch tag := by
  simp only [State.hasAttached, State.AttachedOn, State.anyOn_iff, Bool.and_eq_true, beq_iff_eq]
  constructor <;> rintro ⟨i, t, h⟩ <;> exact ⟨i, t, by tauto⟩

theorem claimInRange_iff (l : Limits) (mode priority : Byte) (term : Word) (limit : Byte) :
    ClaimInRange l mode priority term limit ↔
      (mode = 1 ∨ mode = 2) ∧ claimNumbersInRange l priority.toNat term.toNat limit.toNat = true := by
  simp [ClaimInRange, claimNumbersInRange, and_assoc]

theorem modeOfByte_iff (b : Byte) (m : Mode) : modeOfByte b = some m ↔ ModeByte b m := by
  unfold modeOfByte ModeByte
  split
  · next h => subst h; simp; exact eq_comm
  · split
    · next h => subst h; simp; exact eq_comm
    · next h1 h2 => simp at h1 h2; simp [h1, h2]

/-- A CLAIM that passes its six checks is accepted in its mode. -/
theorem State.checkClaim_ok {s : State} {ch : Channel} {tag : Tag} {mode priority : Byte} {term : Word} {limit : Byte}
    {m : Mode} (h : s.ClaimPasses ch tag mode priority term limit m) :
    s.checkClaim ch tag mode priority.toNat term.toNat limit.toNat = .ok m := by
  obtain ⟨h1, h2, h3, h4, h5, h6, h7, h8⟩ := h
  have h3' := ((claimInRange_iff _ _ _ _ _).1 h3).2
  have h4' := (modeOfByte_iff _ _).2 h4
  have h6' := (s.windowsPermit_iff _ _ _).2 h6
  have h7' : s.hasAttached ch tag = false := by rw [← Bool.not_eq_true, State.hasAttached_iff]; exact h7
  simp [State.checkClaim, h1, h2, h3', h4', h6', h7', show ¬ (s.limits ch).ceiling < priority.toNat by omega,
    show ¬ (s.limits ch).quota ≤ s.nonFree ch by omega]

theorem State.lowestFree_iff (s : State) (i : EntryIx) : s.lowestFree = some i ↔ s.LowestFree i := by
  unfold State.lowestFree allIx State.LowestFree
  rw [List.find?_eq_some_iff_getElem]
  constructor
  · rintro ⟨h, k, hk, hi, hj⟩
    simp at hi hk
    subst hi
    refine ⟨by simpa using h, fun j hlt => ?_⟩
    have := hj j.val (by simpa [Fin.lt_def] using hlt)
    simpa [Option.isSome_iff_ne_none] using this
  · intro h
    refine ⟨by simp [h.1], i.val, by simp, by simp, fun j hj => ?_⟩
    have := h.2 ⟨j, by omega⟩ (by simpa [Fin.lt_def] using hj)
    simpa [Option.isSome_iff_ne_none] using this

/-! ### Acceptance (R18, R19, R22) -/

theorem State.blocked_iff (s : State) (tag : Tag) : s.anyOn tag Tenancy.blocks = true ↔ s.Blocked tag := by
  simp [State.anyOn_iff, State.Blocked]

theorem State.heldOn_iff (s : State) (tag : Tag) : s.anyOn tag Tenancy.isHeld = true ↔ s.HeldOn tag := by
  simp [State.anyOn_iff, State.HeldOn]

theorem State.heldExclusiveOn_iff (s : State) (tag : Tag) :
    s.anyOn tag Tenancy.isHeldExclusive = true ↔ s.HeldExclusiveOn tag := by
  simp [State.anyOn_iff, State.HeldExclusiveOn, Tenancy.isHeldExclusive]

theorem State.HeldExclusiveOn.heldOn {s : State} {tag : Tag} (h : s.HeldExclusiveOn tag) : s.HeldOn tag := by
  obtain ⟨i, t, h1, h2, h3, -⟩ := h
  exact ⟨i, t, h1, h2, h3⟩

/-- The case of acceptance, by the entries on the tag. -/
theorem State.acceptance_eq (s : State) (tag : Tag) (m : Mode) :
    (s.Blocked tag → s.acceptance tag m = .blocked) ∧
    (¬ s.Blocked tag → s.HeldOn tag → m = .exclusive ∨ s.HeldExclusiveOn tag → s.acceptance tag m = .wait) ∧
    (¬ s.Blocked tag → s.HeldOn tag → m = .shared → ¬ s.HeldExclusiveOn tag → s.acceptance tag m = .join) ∧
    (¬ s.Blocked tag → ¬ s.HeldOn tag → s.acceptance tag m = .claim) := by
  simp only [← State.blocked_iff, ← State.heldOn_iff, ← State.heldExclusiveOn_iff, Bool.not_eq_true]
  refine ⟨fun h => ?_, fun h k l => ?_, fun h k l n => ?_, fun h k => ?_⟩
  · simp [State.acceptance, h]
  · rcases l with l | l <;> simp [State.acceptance, h, k, l]
  · simp [State.acceptance, h, k, l, n]
  · simp [State.acceptance, h, k]

/-! ### Queues (R132, R136) -/

theorem State.hasRoom_iff (s : State) (c : Channel) : (s.channel c).hasRoom = true ↔ s.RoomAt c := by
  simp [ChannelState.hasRoom, State.RoomAt]

theorem State.hasRoom_false_iff (s : State) (c : Channel) : (s.channel c).hasRoom = false ↔ ¬ s.RoomAt c := by
  rw [← State.hasRoom_iff, Bool.not_eq_true]

/-! ### Handles (R12, R154) -/

theorem State.resolve_found {s : State} {ch : Channel} {index generation : Byte} {i : EntryIx} {t : Tenancy}
    (h : s.Names ch index generation i t) : s.resolve ch index generation = .found i t := by
  obtain ⟨h1, h2, h3, h4, h5⟩ := h
  have hi : index.toNat < 64 := by omega
  have e : (⟨index.toNat, hi⟩ : EntryIx) = i := Fin.ext h1
  simp [State.resolve, hi, e, h2, h3, h4, h5]

theorem State.resolve_gone {s : State} {ch : Channel} {index generation : Byte} (h : s.HandleGone ch index generation) :
    s.resolve ch index generation = .gone := by
  obtain ⟨i, t, h1, h2, h3, h4, h5⟩ := h
  have hi : index.toNat < 64 := by omega
  have e : (⟨index.toNat, hi⟩ : EntryIx) = i := Fin.ext h1.symm
  simp [State.resolve, hi, e, h2, h3, h4, h5]

theorem State.resolve_bad {s : State} {ch : Channel} {index generation : Byte} (h : s.HandleBad ch index generation) :
    s.resolve ch index generation = .badHandle := by
  rcases h with h | ⟨i, h1, h2⟩
  · simp [State.resolve, show ¬ index.toNat < 64 by omega]
  · have hi : index.toNat < 64 := by omega
    have e : (⟨index.toNat, hi⟩ : EntryIx) = i := Fin.ext h1.symm
    simp only [State.resolve, hi, dif_pos, e]
    cases ht : s.tenancy i with
    | none => rfl
    | some t =>
      rcases h2 t ht with k | k
      · simp [k]
      · by_cases o : t.owner = ch
        · simp [o, Ne.symm k]
        · simp [o]

/-- A handle is bad, gone, or names an attached tenancy. -/
theorem State.handle_cases (s : State) (ch : Channel) (index generation : Byte) :
    s.HandleBad ch index generation ∨ s.HandleGone ch index generation ∨ ∃ i t, s.Names ch index generation i t := by
  by_cases hi : index.toNat < 64
  · cases ht : s.tenancy ⟨index.toNat, hi⟩ with
    | none => exact .inl (.inr ⟨⟨_, hi⟩, rfl, by simp [ht]⟩)
    | some t =>
      by_cases o : t.owner = ch
      · by_cases g : generation.toNat = (s.entry ⟨index.toNat, hi⟩).generation.toNat
        · cases a : t.attached with
          | true => exact .inr (.inr ⟨_, t, rfl, ht, o, g, a⟩)
          | false => exact .inr (.inl ⟨_, t, rfl, ht, o, g, a⟩)
        · exact .inl (.inr ⟨⟨_, hi⟩, rfl, fun u hu => .inr g⟩)
      · refine .inl (.inr ⟨⟨_, hi⟩, rfl, fun u hu => ?_⟩)
        simp_all
  · exact .inl (.inl (by omega))

/-! ### Channels, windows and classes that arguments name -/

theorem channelOfByte_some {b : Byte} {c : Channel} (h : b.toNat = c.val) : channelOfByte b = some c := by
  simp [channelOfByte, h]

theorem channelOfByte_none {b : Byte} (h : 3 < b.toNat) : channelOfByte b = none := by
  simp [channelOfByte]; omega

theorem windowOfByte_some {b : Byte} {k : WindowIx} (h : b.toNat = k.val) : windowOfByte b = some k := by
  simp [windowOfByte, h]

theorem windowOfByte_none {b : Byte} (h : 3 < b.toNat) : windowOfByte b = none := by
  simp [windowOfByte]; omega

end Sys2Proof.Machine
end

