-- ==== Sys2Proof/Laws/Lease.lean ====
section
/-! SUPPORT. The Lease Table's operations in the words of the rules: the end of a tenancy, notices, the release procedure,
examinations, failed attempts. -/

namespace Sys2Proof.Machine

/-! ### The end of a tenancy (R9, R141) -/

theorem SendItem.not_isOf_eq (i : EntryIx) (x : SendItem) : (!x.isOf i) = decide (x ≠ .claim i ∧ x ≠ .release i) := by
  cases x <;> simp [SendItem.isOf, Bool.beq_eq_decide_eq, eq_comm]

theorem State.leave_lists_eq (s : State) (i : EntryIx) :
    (s.dropItem i).leaveWaiting i =
      (s.setSendList (s.frames.sendList.filter fun x => x ≠ .claim i ∧ x ≠ .release i)).setWaiting
        (s.lease.waiting.filter (· ≠ i)) := by
  simp only [State.dropItem, State.leaveWaiting, SendItem.not_isOf_eq]
  congr 1
  exact List.filter_congr fun x _ => by simp [bne, Bool.beq_eq_decide_eq]

/-- With an empty slot the tenancy's end makes the entry FREE (R9). -/
theorem State.endTenancy_freed {s : State} {i : EntryIx} {t : Tenancy} (h : s.tenancy i = some t) (hd : t.deferred = none) :
    s.endTenancy i = s.freed i := by
  simp only [State.endTenancy, h, hd, State.leave_lists_eq, State.freed]

/-- With a notice in the slot it makes the entry CLOSING (R9). -/
theorem State.endTenancy_closing {s : State} {i : EntryIx} {t : Tenancy} {n : LeaseNotice} (h : s.tenancy i = some t)
    (hd : t.deferred = some n) :
    s.endTenancy i =
      ((s.setSendList (s.frames.sendList.filter fun x => x ≠ .claim i ∧ x ≠ .release i)).setWaiting
        (s.lease.waiting.filter (· ≠ i))).setEntry i
        { generation := (s.entry i).generation, tenancy := some { t with state := .closing } } := by
  simp only [State.endTenancy, h, hd, State.leave_lists_eq]
  rw [State.modifyTenancy_of_some (t := t) (by simpa using h)]
  simp [hd]

/-- A discarded notice leaves its entry with an empty slot (R141). -/
theorem State.discardDeferred_tenancy {s : State} {i : EntryIx} {t : Tenancy} (h : s.tenancy i = some t) :
    (s.discardDeferred i).tenancy i = some { t with deferred := none } := by
  unfold State.discardDeferred
  simp only [h]
  split
  · next hd => rw [h]; cases t; simp_all
  · simp [h]

theorem State.discardDeferred_other {s : State} {i j : EntryIx} (h : j ≠ i) :
    (s.discardDeferred i).tenancy j = s.tenancy j := by
  unfold State.discardDeferred
  split
  · rfl
  · split
    · rfl
    · simp [State.modifyTenancy_tenancy, Ne.symm h]

@[simp] theorem State.discardDeferred_waiting (s : State) (i : EntryIx) :
    (s.discardDeferred i).lease.waiting = s.lease.waiting := by
  unfold State.discardDeferred; repeat' split
  all_goals rfl

@[simp] theorem State.discardDeferred_frames (s : State) (i : EntryIx) : (s.discardDeferred i).frames = s.frames := by
  unfold State.discardDeferred; repeat' split
  all_goals rfl

/-- Two states that agree on tag and state of every entry, and on the wait lists, have the same wait list of a tag. -/
theorem State.waitList_same {s t : State} (hw : t.lease.waiting = s.lease.waiting)
    (h : ∀ i, (t.tenancy i).map (fun u => (u.tag, u.state)) = (s.tenancy i).map fun u => (u.tag, u.state)) (tag : Tag) :
    t.waitList tag = s.waitList tag := by
  unfold State.waitList
  rw [hw]
  refine List.filter_congr fun i _ => ?_
  have := h i
  unfold State.onTag State.entryMeets
  cases hs : s.tenancy i <;> cases ht : t.tenancy i <;> simp_all [Tenancy.isQueued]

theorem State.discardDeferred_waitList (s : State) (i : EntryIx) (tag : Tag) :
    (s.discardDeferred i).waitList tag = s.waitList tag := by
  refine State.waitList_same (by simp) (fun j => ?_) tag
  by_cases e : j = i
  · subst e
    cases h : s.tenancy j with
    | none => simp [State.discardDeferred, h]
    | some t => rw [State.discardDeferred_tenancy h]; rfl
  · rw [State.discardDeferred_other e]

/-! ### The release procedure (R57 to R60) -/

theorem State.otherHolder_iff (s : State) (i : EntryIx) (tag : Tag) : s.otherHolder i tag = true ↔ ¬ s.LastHolder i tag := by
  simp only [State.otherHolder, allIx, List.any_eq_true, List.mem_finRange, true_and, State.LastHolder, Bool.and_eq_true,
    bne_iff_ne]
  constructor
  · rintro ⟨j, hj, hon⟩ hl
    unfold State.onTag State.entryMeets at hon
    cases ht : s.tenancy j with
    | none => simp [ht] at hon
    | some t => simp [ht] at hon; have := hl j t hj ht hon.1; simp_all
  · intro hl
    simp only [not_forall] at hl
    obtain ⟨j, t, hj, ht, hg, hh⟩ := hl
    exact ⟨j, hj, by simp [State.onTag, State.entryMeets, ht, hg] at *; exact hh⟩

/-- The decision of the release procedure, in the words of R57 to R60. -/
theorem State.passing_eq (s : State) (i : EntryIx) (tag : Tag) (m : Mode) (demand : Bool) :
    (¬ s.LastHolder i tag → s.passing i tag m demand = .otherHolders) ∧
    (∀ j rest, s.LastHolder i tag → m = .exclusive → demand = false → s.waitList tag = j :: rest →
      s.passing i tag m demand = .handOn) ∧
    (s.LastHolder i tag → m = .shared ∨ demand = true ∨ s.waitList tag = [] →
      s.passing i tag m demand = if s.lease.taken = .up then .ringRelease else .noFrame) := by
  have key : s.LastHolder i tag → s.otherHolder i tag = false := fun h => by
    rw [← Bool.not_eq_true, State.otherHolder_iff]; exact not_not.2 h
  refine ⟨fun h => ?_, fun j rest h hm hd hw => ?_, fun h k => ?_⟩
  · simp [State.passing, (State.otherHolder_iff _ _ _).2 h]
  · simp [State.passing, key h, hm, hd, hw]
  · unfold State.passing
    rw [key h]
    rcases k with k | k | k <;> simp [k]

theorem State.detach_tenancy {s : State} {i : EntryIx} {t : Tenancy} (h : s.tenancy i = some t) :
    (s.detach i).tenancy i = some { t with attached := false } := by simp [State.detach, h]

/-- A detached entry with an empty slot goes FREE as an attached one does. -/
theorem State.detach_freed (s : State) (i : EntryIx) : (s.detach i).freed i = s.freed i := by
  simp [State.freed, State.detach, State.modifyTenancy, State.setEntry, State.setSendList, State.setWaiting]
  simp [State.entry, Vector.get_eq_getElem]

/-- What the release procedure leaves of an entry without a deferred notice, by its decision (R57 to R60). -/
theorem State.leaveHeld_eq {s : State} {i : EntryIx} {t : Tenancy} {remaining : Nat} {demand : Bool}
    (h : s.tenancy i = some t) (hs : t.state = .held remaining demand) :
    s.leaveHeld i =
      match s.passing i t.tag t.mode demand with
      | .otherHolders | .noFrame => ((s.detach i).endTenancy i, false)
      | .handOn => ((s.detach i).endTenancy i, true)
      | .ringRelease => (s.toTheRing i, false) := by
  unfold State.leaveHeld
  simp only [h, hs]
  split <;> simp_all [State.enterReleasing, State.toTheRing, State.detach, State.modifyTenancy_modifyTenancy]
  rfl

/-- An entry made FREE leaves the wait list of its tag, and the others keep their places (R9, R17). -/
theorem State.freed_waitList (s : State) (i : EntryIx) (tag : Tag) :
    (s.freed i).waitList tag = (s.waitList tag).filter (· ≠ i) := by
  have hw : (s.freed i).lease.waiting = s.lease.waiting.filter (· ≠ i) := rfl
  simp only [State.waitList, hw, List.filter_filter]
  refine List.filter_congr fun j _ => ?_
  by_cases e : j = i
  · subst e; simp [State.freed, State.onTag, State.entryMeets]
  · simp [e, State.freed, State.onTag, State.entryMeets, State.setEntry_tenancy, Ne.symm e]

/-! ### Examinations (R21 to R23) -/

theorem State.examine_nil {s : State} {tag : Tag} (h : s.waitList tag = []) : s.examine tag = s := by
  simp [State.examine, h, State.examineLoop]

/-- A list whose head stays is left as it is. -/
theorem State.examine_stays {s : State} {tag : Tag} {i : EntryIx} {rest : List EntryIx} {t : Tenancy}
    (h : s.waitList tag = i :: rest) (ht : s.tenancy i = some t)
    (ha : s.acceptance tag t.mode = .blocked ∨ s.acceptance tag t.mode = .wait) : s.examine tag = s := by
  rcases ha with ha | ha <;> simp [State.examine, h, State.examineLoop, ht, State.treatHead, ha]

/-- On a tag with a CLAIMING, BACKOFF or RELEASING entry an examination changes nothing (R22). -/
theorem State.examine_blocked {s : State} {tag : Tag} (h : s.Blocked tag) : s.examine tag = s := by
  cases hw : s.waitList tag with
  | nil => exact State.examine_nil hw
  | cons i rest =>
    obtain ⟨-, t, ht, -, -⟩ := State.mem_waitList.1 (hw ▸ List.mem_cons_self : i ∈ s.waitList tag)
    exact State.examine_stays hw ht (.inl ((s.acceptance_eq tag t.mode).1 h))

/-- Once a waiting entry is no longer QUEUED_LOCAL and has left the lists, the wait list of its tag is the rest. -/
theorem State.waitList_tail {s u : State} {tag : Tag} {i : EntryIx}
    (hw : u.lease.waiting = s.lease.waiting.filter (· != i)) (hu : ∀ j, j ≠ i → u.tenancy j = s.tenancy j) :
    u.waitList tag = (s.waitList tag).filter (· != i) := by
  simp only [State.waitList, hw, List.filter_filter]
  refine List.filter_congr fun j _ => ?_
  by_cases e : j = i
  · simp [e]
  · simp [e, State.onTag, State.entryMeets, hu j e, bne, Bool.beq_eq_decide_eq]

/-- Fuel beyond the length of the list changes nothing, for each head that lets the examination go on leaves the list. -/
theorem State.treatHead_waitList {s : State} {tag : Tag} {i : EntryIx} {m : Mode} (h : (s.treatHead i tag m).2 = true) :
    (s.treatHead i tag m).1.waitList tag = (s.waitList tag).filter (· != i) := by
  unfold State.treatHead at h ⊢
  split at h
  · simp at h
  · simp at h
  · refine State.waitList_tail (by simp [State.leaveWaiting]) fun j hj => ?_
    obtain ⟨d, hd⟩ := (s.leaveWaiting i).grant_tenancy i j false
    simp only [hd, if_neg hj]; rfl
  · split at h
    · simp at h
    · rename_i hne
      simp only [hne, if_false]
      refine State.waitList_tail ?_ fun j hj => ?_
      · unfold State.deny; split
        · rfl
        · simp [State.leaveWaiting, List.filter_filter]
      · rw [((s.leaveWaiting i).deny_tenancy i j _ _).1 hj]; rfl

theorem State.examineLoop_fuel (tag : Tag) (n k : Nat) (s : State) (hn : (s.waitList tag).length ≤ n)
    (hk : (s.waitList tag).length ≤ k) : s.examineLoop tag n = s.examineLoop tag k := by
  induction n generalizing s k with
  | zero =>
    have : s.waitList tag = [] := List.eq_nil_of_length_eq_zero (by omega)
    cases k <;> simp [State.examineLoop, this]
  | succ n ih =>
    cases k with
    | zero =>
      have : s.waitList tag = [] := List.eq_nil_of_length_eq_zero (by omega)
      simp [State.examineLoop, this]
    | succ k =>
      simp only [State.examineLoop]
      cases hw : s.waitList tag with
      | nil => rfl
      | cons i rest =>
        simp only
        cases ht : s.tenancy i with
        | none => rfl
        | some t =>
          simp only
          split
          · next h =>
            have e := State.treatHead_waitList h
            rw [hw] at e hn hk
            have l : ((s.treatHead i tag t.mode).1.waitList tag).length ≤ rest.length := by
              rw [e]; simp only [bne_self_eq_false, Bool.false_eq_true, not_false_eq_true, List.filter_cons_of_neg]
              exact List.length_filter_le _ _
            simp only [List.length_cons] at hn hk
            exact ih _ _ (by omega) (by omega)
          · rfl

/-- An examination treats the head, and goes on with the examination of what remains when the head lets it (R22). -/
theorem State.examine_cons {s : State} {tag : Tag} {i : EntryIx} {rest : List EntryIx} {t : Tenancy}
    (h : s.waitList tag = i :: rest) (ht : s.tenancy i = some t) :
    s.examine tag =
      if (s.treatHead i tag t.mode).2 then (s.treatHead i tag t.mode).1.examine tag else (s.treatHead i tag t.mode).1 := by
  simp only [State.examine, h, List.length_cons, State.examineLoop, ht]
  split
  · next hc =>
    refine State.examineLoop_fuel tag _ _ _ ?_ (Nat.le_refl _)
    rw [State.treatHead_waitList hc, h]
    simp only [bne_self_eq_false, Bool.false_eq_true, not_false_eq_true, List.filter_cons_of_neg]
    exact List.length_filter_le _ _
  · rfl

end Sys2Proof.Machine
end

