-- ==== Sys2Proof/Laws/Arrivals.lean ====
section
/-! SUPPORT. What becomes of an arrival at the Frame Processor, and what the reports of arrivals leave alone. -/

namespace Sys2Proof.Machine

open Host.Outcome

/-! ### The report of an intact arrival (R115, R116) -/

@[simp] theorem State.afterIntact_tenancy (s : State) (rest : List Arrival) (j : EntryIx) :
    (s.afterIntact rest).tenancy j = s.tenancy j := by
  simp only [State.afterIntact, State.reportIntact]; split <;> rfl

@[simp] theorem State.afterIntact_lease (s : State) (rest : List Arrival) : (s.afterIntact rest).lease = s.lease := by
  simp only [State.afterIntact, State.reportIntact]; split <;> rfl

@[simp] theorem State.afterIntact_config (s : State) (rest : List Arrival) : (s.afterIntact rest).config = s.config := by
  simp only [State.afterIntact, State.reportIntact]; split <;> rfl

@[simp] theorem State.afterIntact_identity (s : State) (rest : List Arrival) : (s.afterIntact rest).identity = s.identity := by
  simp only [State.afterIntact, State.reportIntact]; split <;> rfl

@[simp] theorem State.afterIntact_time (s : State) (rest : List Arrival) : (s.afterIntact rest).time = s.time := by
  simp only [State.afterIntact, State.reportIntact]; split <;> rfl

@[simp] theorem State.afterIntact_line (s : State) (rest : List Arrival) : (s.afterIntact rest).line = s.line := by
  simp only [State.afterIntact, State.reportIntact]; split <;> rfl

@[simp] theorem State.afterIntact_sendList (s : State) (rest : List Arrival) :
    (s.afterIntact rest).frames.sendList = s.frames.sendList := by
  simp only [State.afterIntact, State.reportIntact]; split <;> rfl

/-- The report changes the fault score and the fault warning of the station record, and nothing else in it. -/
theorem State.afterIntact_station (s : State) (rest : List Arrival) :
    (s.afterIntact rest).station =
      { s.station with
        faultScore := (s.afterIntact rest).station.faultScore
        faultWarning := (s.afterIntact rest).station.faultWarning } := by
  simp only [State.afterIntact, State.reportIntact]; split <;> rfl

@[simp] theorem State.afterIntact_state (s : State) (rest : List Arrival) :
    (s.afterIntact rest).station.state = s.station.state := by rw [State.afterIntact_station]

@[simp] theorem State.afterIntact_census (s : State) (rest : List Arrival) :
    (s.afterIntact rest).station.census = s.station.census := by rw [State.afterIntact_station]

@[simp] theorem State.afterIntact_view (s : State) (rest : List Arrival) :
    (s.afterIntact rest).station.view = s.station.view := by rw [State.afterIntact_station]

@[simp] theorem State.afterIntact_timestamp (s : State) (rest : List Arrival) :
    (s.afterIntact rest).station.timestamp = s.station.timestamp := by rw [State.afterIntact_station]

/-! ### Where an arrival goes (R79 to R81) -/

theorem State.arrival_taken {s : State} {a : Arrival} {rest : List Arrival} (h : s.Arrives a rest) :
    exec .frameArrival s = next ((s.modifyFrames ({ · with arrivals := rest })).takeArrival a) := by
  obtain ⟨h1, h2, h3⟩ := h
  have : s.takesArrivals = true := by simp [State.takesArrivals, h2, h3]
  simp only [exec, execFrameArrival, h1, State.judgeNext, this, if_true]

/-- An own frame goes to the block that sent it (R80). -/
theorem State.arrival_own {s : State} {a : Arrival} {rest : List Arrival} {f : Frame} (h : s.Arrives a rest)
    (hj : a.judge = some f) (ho : s.Own f) : exec .frameArrival s = next ((s.afterIntact rest).ownReturn f) := by
  rw [State.arrival_taken h]
  simp only [State.takeArrival, hj]
  change next (if (s.ownNumber f && f.check == s.sourceCheck) = true then (s.afterIntact rest).ownReturn f else _) = _
  simp [State.ownNumber, State.sourceCheck, ho.1, ho.2]

/-- Any other intact frame is treated as a foreign one (R81 to R84). -/
theorem State.arrival_foreign {s : State} {a : Arrival} {rest : List Arrival} {f : Frame} (h : s.Arrives a rest)
    (hj : a.judge = some f) (ho : ¬ s.Own f) :
    exec .frameArrival s = next ((s.afterIntact rest).foreignFrame f a.words) := by
  rw [State.arrival_taken h]
  simp only [State.takeArrival, hj]
  change next (if (s.ownNumber f && f.check == s.sourceCheck) = true then _ else (s.afterIntact rest).foreignFrame f a.words) = _
  rw [if_neg]
  intro hc
  exact ho (by simpa [State.ownNumber, State.sourceCheck, State.Own] using hc)

/-! ### Searches over the entries -/

/-- When one entry alone meets a condition, the search finds it. -/
theorem State.find_only {s : State} {p : Tenancy → Bool} {i : EntryIx} {t : Tenancy} (ht : s.tenancy i = some t)
    (hp : p t = true) (ho : ∀ j u, j ≠ i → s.tenancy j = some u → p u = false) :
    allIx.find? (s.entryMeets p) = some i := by
  cases hf : allIx.find? (s.entryMeets p) with
  | none =>
    have := List.find?_eq_none.1 hf i (by simp [allIx])
    simp [State.entryMeets, ht, hp] at this
  | some j =>
    have := List.find?_some hf
    obtain ⟨u, hu, hq⟩ := State.entryMeets_iff.1 this
    by_cases e : j = i
    · rw [e]
    · rw [ho j u e hu] at hq; simp at hq

theorem State.find_none {s : State} {p : Tenancy → Bool} (h : ∀ i t, s.tenancy i = some t → p t = false) :
    allIx.find? (s.entryMeets p) = none := by
  rw [List.find?_eq_none]
  intro i _ hm
  obtain ⟨t, ht, hp⟩ := State.entryMeets_iff.1 hm
  rw [h i t ht] at hp; simp at hp

/-- A search looks at the tenancies alone. -/
theorem State.entryMeets_same {s t : State} (h : ∀ i, t.tenancy i = s.tenancy i) (p : Tenancy → Bool) :
    t.entryMeets p = s.entryMeets p := by
  funext i; simp [State.entryMeets, h]

theorem State.find_onTag_only {s : State} {p : Tenancy → Bool} {tag : Tag} {i : EntryIx} {t : Tenancy}
    (ht : s.tenancy i = some t) (hg : t.tag = tag) (hp : p t = true)
    (ho : ∀ j u, j ≠ i → s.tenancy j = some u → u.tag = tag → p u = false) :
    allIx.find? (s.onTag tag p) = some i :=
  State.find_only ht (by simp [hg, hp]) fun j u hj hu => by
    by_cases e : u.tag = tag
    · simp [ho j u hj hu e]
    · simp [e]

theorem State.find_onTag_none {s : State} {p : Tenancy → Bool} {tag : Tag}
    (h : ∀ i t, s.tenancy i = some t → t.tag = tag → p t = false) : allIx.find? (s.onTag tag p) = none :=
  State.find_none fun i t ht => by
    by_cases e : t.tag = tag
    · simp [h i t ht e]
    · simp [e]

/-! ### Failed attempts (R37 to R39, R42) -/

theorem State.failAttempt_backsOff {s : State} {i : EntryIx} {t : Tenancy} (ht : s.tenancy i = some t)
    (hl : t.attempts < t.attemptLimit) (cause : FailCause) (objector : Option StationNo) :
    s.failAttempt i cause objector = s.backsOff i cause objector (s.backoffTime cause) := by
  simp only [State.failAttempt, ht, hl, if_true, State.modifyTenancy_modifyTenancy]
  rfl

theorem State.failAttempt_denied {s : State} {i : EntryIx} {t : Tenancy} (ht : s.tenancy i = some t)
    (hl : t.attemptLimit ≤ t.attempts) (cause : FailCause) (objector : Option StationNo) :
    s.failAttempt i cause objector = s.denied i t cause objector := by
  simp [State.failAttempt, ht, show ¬ t.attempts < t.attemptLimit by omega, State.denied, State.deny]

/-- A grant, in the words of R36. -/
theorem State.grant_eq {s : State} {i : EntryIx} {t : Tenancy} (ht : s.tenancy i = some t) (handedOn : Bool) :
    s.grant i handedOn =
      (s.modifyTenancy i fun u =>
        { u with state := .held u.term false, contendedNotified := false, expiringNotified := false }).raiseLease i
        (.granted t.mode) { handedOn := handedOn } := by
  simp only [State.grant, ht]; rfl

/-- A hand-on, in the words of R58. -/
theorem State.handOn_eq {s : State} {tag : Tag} {j : EntryIx} {rest : List EntryIx} {w : Tenancy}
    (hl : s.waitList tag = j :: rest) (hw : s.tenancy j = some w) :
    s.handOn tag =
      ((s.setWaiting (s.lease.waiting.filter (· ≠ j))).modifyTenancy j fun u =>
        { u with state := .held u.term false, contendedNotified := false, expiringNotified := false }).raiseLease j
        (.granted w.mode) { handedOn := true } := by
  have e : s.leaveWaiting j = s.setWaiting (s.lease.waiting.filter (· ≠ j)) := by
    simp [State.leaveWaiting, bne, Bool.beq_eq_decide_eq]
  simp only [State.handOn, hl, e]
  exact State.grant_eq (by simpa using hw) true

end Sys2Proof.Machine
end

