-- ==== Sys2Proof/Laws/Changes.lean ====
section
/-! SUPPORT. What is cited of an event that acts on several entries: the tags it collects, what a change of station state does
to one entry, what a holder's demand does to one, and the expiry that is due at one entry. -/

namespace Sys2Proof.Machine

/-! ### The tags on which an event changed entries (R21, R47, R71) -/

theorem mem_insertTag {g x : Tag} {l : List Tag} : x ∈ insertTag g l ↔ x = g ∨ x ∈ l := by
  induction l with
  | nil => simp [insertTag]
  | cons y l ih =>
    unfold insertTag; split
    · simp
    · split
      · next h => subst h; simp
      · simp only [List.mem_cons, ih]; tauto

theorem insertTag_ascending {g : Tag} {l : List Tag} (h : l.Pairwise (fun a b => a.toNat < b.toNat)) :
    (insertTag g l).Pairwise (fun a b => a.toNat < b.toNat) := by
  induction l with
  | nil => simp [insertTag]
  | cons y l ih =>
    obtain ⟨hy, hl⟩ := List.pairwise_cons.1 h
    unfold insertTag; split
    · next hg =>
      refine List.pairwise_cons.2 ⟨fun x hx => ?_, h⟩
      rcases List.mem_cons.1 hx with rfl | hx
      · exact hg
      · exact Nat.lt_trans hg (hy x hx)
    · next hg =>
      split
      · exact h
      · next hne =>
        refine List.pairwise_cons.2 ⟨fun x hx => ?_, ih hl⟩
        rcases mem_insertTag.1 hx with rfl | hx
        · have : x.toNat ≠ y.toNat := fun e => hne (BitVec.eq_of_toNat_eq e)
          omega
        · exact hy x hx

theorem State.tagsOf_ascending (s : State) (p : Tenancy → Bool) :
    (s.tagsOf p).Pairwise (fun a b => a.toNat < b.toNat) := by
  unfold State.tagsOf
  generalize allIx = l
  induction l with
  | nil => exact .nil
  | cons i l ih =>
    rw [List.foldr_cons]
    split
    · split
      · exact insertTag_ascending ih
      · exact ih
    · exact ih

theorem State.mem_tagsOf {s : State} {p : Tenancy → Bool} {g : Tag} :
    g ∈ s.tagsOf p ↔ ∃ i u, s.tenancy i = some u ∧ u.tag = g ∧ p u = true := by
  have of_list (l : List EntryIx) :
      g ∈ (l.foldr (fun i acc => match s.tenancy i with
        | some t => if p t then insertTag t.tag acc else acc
        | none => acc) []) ↔ ∃ i ∈ l, ∃ u, s.tenancy i = some u ∧ u.tag = g ∧ p u = true := by
    induction l with
    | nil => simp
    | cons i l ih =>
      rw [List.foldr_cons, List.exists_mem_cons_iff, ← ih]
      cases hs : s.tenancy i with
      | none => simp
      | some u =>
        have here : (∃ v, some u = some v ∧ v.tag = g ∧ p v = true) ↔ g = u.tag ∧ p u = true := by
          simp only [Option.some.injEq, exists_eq_left', @eq_comm Tag u.tag g]
        rw [here]
        cases hp : p u <;> simp [hp, mem_insertTag]
  exact (of_list allIx).trans ⟨fun ⟨i, _, h⟩ => ⟨i, h⟩, fun ⟨i, h⟩ => ⟨i, by simp [allIx], h⟩⟩

/-! ### A change of the station state at one entry (R47, R66) -/

theorem State.changeEntry_changed (s : State) (cause : DenyCause) (i : EntryIx) :
    s.EntryChanged cause i (State.changeEntry cause s i) := by
  refine ⟨fun h => by simp only [State.changeEntry, h], fun u hu => ?_⟩
  have denied : s.deny i cause none = (s.raiseLease i (.denied cause none u.attempts) {}).endTenancy i := by
    simp only [State.deny, hu]
  cases hs : u.state with
  | claiming phase lost =>
    exact ⟨fun h => by simp only [State.changeEntry, hu, hs, h, if_true, denied],
      fun h => by simp [State.changeEntry, hu, hs, h]⟩
  | backoff timer => simp only [State.changeEntry, hu, hs, denied]
  | _ => simp only [State.changeEntry, hu, hs]

/-! ### A holder's demand at one entry (R29, R30) -/

theorem State.demandOn_demanded (s : State) (tag : Tag) (claimant : StationNo) (i : EntryIx) :
    s.EntryDemanded tag claimant i (State.demandOn tag claimant s i) := by
  refine ⟨fun other => ?_, fun u remaining demand d hu ht hs hd => ?_⟩
  · cases hu : s.tenancy i with
    | none => simp only [State.demandOn, hu]
    | some u =>
      cases hs : u.state with
      | held remaining demand =>
        have ht : u.tag ≠ tag := (other u hu).resolve_right (by simp [Tenancy.isHeld, hs, EntryState.name])
        simp only [State.demandOn, hu, hs, if_neg ht]
      | _ => simp only [State.demandOn, hu, hs]
  · exact ⟨fun h => by simp only [State.demandOn, hu, hs, ht, h, hd, if_true],
      fun h => by simp [State.demandOn, hu, hs, ht, h, hd]⟩

/-! ### The expiry that is due at one entry (R11) -/

theorem State.entryExpires_iff {s : State} {i : EntryIx} {c : Instr} :
    s.EntryExpires i c ↔ (s.tenancy i).bind (dueOfEntry i) = some c := by
  unfold State.EntryExpires
  cases hu : s.tenancy i with
  | none => simp
  | some u =>
    simp only [Option.some.injEq, exists_eq_left', Option.bind_some]
    unfold dueOfEntry
    constructor
    · rintro (⟨_, h, rfl⟩ | ⟨h, rfl⟩ | ⟨_, _, h, rfl⟩ | ⟨_, h, rfl⟩) <;> (rw [h]; rfl)
    · intro h
      split at h <;> cases h
      · next hs => exact .inl ⟨_, hs, rfl⟩
      · next hs => exact .inr (.inl ⟨hs, rfl⟩)
      · next hs => exact .inr (.inr (.inl ⟨_, _, hs, rfl⟩))
      · next hs => exact .inr (.inr (.inr ⟨_, hs, rfl⟩))

end Sys2Proof.Machine
end

