-- ==== Sys2Proof/Laws/Station.lean ====
section
/-! SUPPORT. The Station Controller's changes of state in the words of the rules. -/

namespace Sys2Proof.Machine

/-- An UP station enters DOWN (R118). -/
theorem State.enterDown_up {s : State} (h : s.station.state = .up) (cause : RingCause) :
    s.enterDown cause = s.goesDown cause := by
  simp [State.enterDown, h, State.goesDown, State.raiseRingState, State.tellLease]
  rfl

/-- In every other state the event changes no state (R118). -/
theorem State.enterDown_not {s : State} (h : s.station.state ≠ .up) (cause : RingCause) : s.enterDown cause = s := by
  simp [State.enterDown, h]

/-- A JOINING, UP or DOWN station enters HALTED (R120). -/
theorem State.enterHalted_eq {s : State}
    (h : s.station.state = .joining ∨ s.station.state = .up ∨ s.station.state = .down) : s.enterHalted = s.halts := by
  simp [State.enterHalted, h, State.halts, State.raiseRingState, State.tellLease]
  simp [State.raiseStation, bne, Bool.beq_eq_decide_eq]

theorem State.enterHalted_not {s : State} (h : s.station.state = .halted ∨ s.station.state = .offline) :
    s.enterHalted = s := by
  rcases h with h | h <;> simp [State.enterHalted, h]

/-- The station enters UP (R112). -/
theorem State.enterUp_eq (s : State) (members : List Member) (cause : RingCause) :
    s.enterUp members cause = s.goesUp members cause := by
  by_cases h : s.lease.changes = [] <;>
    simp [State.enterUp, State.goesUp, State.raiseRingState, State.tellLease, h, State.raiseStation]

/-- A census item joins the send list while the census is NONE (R109). -/
theorem State.addCensus_none {s : State} (h : s.station.census = .none) : s.addCensus = s.queuesCensus := by
  simp [State.addCensus, h, State.queuesCensus]

theorem State.addCensus_not {s : State} (h : s.station.census ≠ .none) : s.addCensus = s := by simp [State.addCensus, h]

theorem State.listsDuplicate_iff (s : State) (members : List Member) :
    s.listsDuplicate members = true ↔
      ∃ m ∈ members, m.number = s.config.settings.stationNumber ∧ m.identity ≠ s.identity := by
  simp [State.listsDuplicate]

theorem State.listsSelf_iff (s : State) (members : List Member) :
    s.listsSelf members = true ↔
      ({ number := s.config.settings.stationNumber, identity := s.identity } : Member) ∈ members := by
  simp only [State.listsSelf, List.any_eq_true, Bool.and_eq_true, beq_iff_eq]
  constructor
  · rintro ⟨⟨n, d⟩, hm, h1, h2⟩
    simp only at h1 h2
    rw [← h1, ← h2]; exact hm
  · exact fun hm => ⟨_, hm, rfl, rfl⟩

/-- A damaged arrival, in the words of R115 to R117. -/
theorem State.reportDamaged_eq {s : State} {score : Nat} (h : score = min 255 (s.station.faultScore + 8)) :
    s.reportDamaged =
      let s1 := s.modifyStation ({ · with faultScore := score })
      let s2 :=
        if s.station.faultWarning = false ∧ 96 ≤ score then
          (s1.modifyStation ({ · with faultWarning := true })).raiseStation .faults
            (.faultWarning s.station.timestamp score true)
        else s1
      if score = 255 ∧ s.station.state = .up then s2.goesDown .faults else s2 := by
  have hsc : scoreDamaged s.station.faultScore = score := h.symm
  have down : ∀ u : State, u.station.state = s.station.state →
      (if score = Config.scoreMax then u.enterDown .faults else u) =
        if score = 255 ∧ s.station.state = .up then u.goesDown .faults else u := fun u hu => by
    by_cases h2 : score = 255
    · by_cases h3 : s.station.state = .up
      · simp only [h2, h3, and_self, if_true, State.enterDown_up (hu.trans h3)]
      · simp only [h2, h3, and_false, if_true, if_false]
        exact State.enterDown_not (by rw [hu]; exact h3) _
    · simp [h2]
  simp only [State.reportDamaged, hsc]
  exact down _ (by split <;> rfl)

end Sys2Proof.Machine
end

