-- ==== Sys2Proof/Laws/Work.lean ====
section
/-! SUPPORT. What the larger operations leave alone: those of the Lease Table and the Event Block touch entries, lists and event
state (LeaseWork); those of arrivals and of the station touch no queue of commands, configuration, clock or generation
(BlockWork). -/

namespace Sys2Proof.Machine

/-! ### Folds -/

/-- A fold of steps that each do lease work does lease work. -/
theorem State.foldl_work {α : Type} {f : State → α → State} (hf : ∀ (s : State) (a : α), s.LeaseWork (f s a)) (l : List α) (s : State) :
    s.LeaseWork (l.foldl f s) := by
  induction l generalizing s with
  | nil => exact .refl s
  | cons a l ih => exact (hf s a).trans (ih _)

/-! ### Examinations and the release procedure -/

theorem State.treatHead_work (s : State) (i : EntryIx) (tag : Tag) (m : Mode) : s.LeaseWork (s.treatHead i tag m).1 := by
  unfold State.treatHead
  split
  · exact .refl s
  · exact .refl s
  · exact (s.leaveWaiting_work i).trans (State.grant_work _ _ _)
  · split
    · exact (s.leaveWaiting_work i).trans (State.enterClaiming_work _ _)
    · exact (s.leaveWaiting_work i).trans (State.deny_work _ _ _ _)

theorem State.examineLoop_work (tag : Tag) (n : Nat) (s : State) : s.LeaseWork (s.examineLoop tag n) := by
  induction n generalizing s with
  | zero => exact .refl s
  | succ n ih =>
    unfold State.examineLoop
    split
    · exact .refl s
    · split
      · exact .refl s
      · dsimp only
        split
        · exact (s.treatHead_work _ _ _).trans (ih _)
        · exact s.treatHead_work _ _ _

theorem State.examine_work (s : State) (tag : Tag) : s.LeaseWork (s.examine tag) := State.examineLoop_work _ _ _

theorem State.handOn_work (s : State) (tag : Tag) : s.LeaseWork (s.handOn tag) := by
  unfold State.handOn
  split
  · exact .refl s
  · exact (s.leaveWaiting_work _).trans (State.grant_work _ _ _)

theorem State.examineAfter_work (s : State) (tag : Tag) (handOn : Bool) : s.LeaseWork (s.examineAfter tag handOn) := by
  unfold State.examineAfter
  split
  · exact (s.handOn_work tag).trans (State.examine_work _ _)
  · exact s.examine_work tag

theorem State.leaveHeld_work (s : State) (i : EntryIx) : s.LeaseWork (s.leaveHeld i).1 := by
  unfold State.leaveHeld
  split
  · exact .refl s
  · split
    · dsimp only
      split
      · exact (s.detach_work i).trans (State.endTenancy_work _ _)
      · exact (s.detach_work i).trans (State.endTenancy_work _ _)
      · exact (s.detach_work i).trans (State.endTenancy_work _ _)
      · exact (s.detach_work i).trans (State.enterReleasing_work _ _)
    all_goals exact .refl s

theorem State.releaseHeld_work (s : State) (i : EntryIx) (tag : Tag) : s.LeaseWork (s.releaseHeld i tag) :=
  (s.leaveHeld_work i).trans (State.examineAfter_work _ _ _)

theorem State.examineTags_work (s : State) (tags handOns : List Tag) : s.LeaseWork (s.examineTags tags handOns) :=
  State.foldl_work (fun s tag => s.examineAfter_work tag _) tags s

theorem State.endAndExamine_work (s : State) (i : EntryIx) (tag : Tag) : s.LeaseWork (s.endAndExamine i tag) :=
  (s.endTenancy_work i).trans (State.examine_work _ _)

theorem State.failAttempt_work (s : State) (i : EntryIx) (cause : FailCause) (objector : Option StationNo) :
    s.LeaseWork (s.failAttempt i cause objector) := by
  unfold State.failAttempt
  split
  · exact .refl s
  · dsimp only
    split
    · exact (s.leaseWork_modifyTenancy _ _ (by simp)).trans (State.leaseWork_modifyTenancy _ _ _ (by simp))
    · exact (s.leaseWork_modifyTenancy _ _ (by simp)).trans ((State.deny_work _ _ _ _).trans (State.examine_work _ _))

theorem State.releaseEntry_work (s : State) (i : EntryIx) (t : Tenancy) : s.LeaseWork (s.releaseEntry i t) := by
  unfold State.releaseEntry
  split
  · dsimp only
    split
    · exact (s.endTenancy_work i).trans (State.examine_work _ _)
    · exact s.endTenancy_work i
  · exact s.endAndExamine_work i _
  · exact s.endAndExamine_work i _
  · exact s.endAndExamine_work i _
  · exact s.detach_work i
  · exact s.releaseHeld_work i _
  · exact .refl s

/-! ### The Event Block -/

theorem State.moveIn_work (c : Channel) (l : List DeferralItem) (s : State) : s.LeaseWork (State.moveIn c l s) := by
  induction l generalizing s with
  | nil => exact s.leaseWork_modifyChannel _ _ (by simp)
  | cons x l ih =>
    cases x with
    | marker set => exact s.leaseWork_modifyChannel _ _ (by simp)
    | entry i =>
      unfold State.moveIn
      split
      · dsimp only
        split
        · exact (s.leaseWork_modifyChannel _ _ (by simp)).trans
            ((State.leaseWork_modifyTenancy _ _ _ (by simp)).trans (State.endAndExamine_work _ _ _))
        · exact (s.leaseWork_modifyChannel _ _ (by simp)).trans (State.leaseWork_modifyTenancy _ _ _ (by simp))
      · exact ih s

/-! ### A channel reset (R71) -/

theorem State.resetEvents_tenancy (s : State) (c : Channel) (i : EntryIx) :
    (s.resetEvents c).tenancy i =
      (s.tenancy i).map fun t => if t.owner = c then { t with deferred := none } else t := by
  simp [State.resetEvents, State.tenancy, State.entry, State.modifyChannel, Vector.get_eq_getElem, Entry.emptySlotOf]

theorem State.resetEvents_work (s : State) (c : Channel) : s.LeaseWork (s.resetEvents c) where
  station := rfl
  line := rfl
  config := rfl
  time := rfl
  identity := rfl
  rstnLow := rfl
  ports := rfl
  choices := rfl
  pending := rfl
  serial := rfl
  arrivals := rfl
  taken := rfl
  changes := rfl
  generation := fun i => by
    simp [State.resetEvents, State.entry, State.modifyChannel, Vector.get_eq_getElem, Entry.emptySlotOf]
  free := fun i h => by rw [State.resetEvents_tenancy, h]; rfl
  reads := fun d => by
    unfold State.resetEvents
    rw [State.modifyChannel_channel]
    split
    · subst c; exact ⟨rfl, rfl, rfl⟩
    · exact ⟨rfl, rfl, rfl⟩
  fixed := fun i u h => by
    rw [State.resetEvents_tenancy] at h
    obtain ⟨v, hv, rfl⟩ := Option.map_eq_some_iff.1 h
    exact ⟨v, hv, by split <;> simp⟩

theorem State.resetFree_work (c : Channel) (s : State) (i : EntryIx) : s.LeaseWork (State.resetFree c s i) := by
  unfold State.resetFree
  split
  · exact s.endTenancy_work i
  · exact .refl s

theorem State.resetDetach_work (c : Channel) (s : State) (i : EntryIx) : s.LeaseWork (State.resetDetach c s i) := by
  unfold State.resetDetach
  split
  · exact s.detach_work i
  · exact .refl s

theorem State.resetRelease_work (c : Channel) (r : State × List Tag) (i : EntryIx) :
    r.1.LeaseWork (State.resetRelease c r i).1 := by
  unfold State.resetRelease
  split
  · split
    · exact r.1.leaveHeld_work i
    · exact .refl _
  · exact .refl _

theorem State.resetReleases_work (c : Channel) (l : List EntryIx) (r : State × List Tag) :
    r.1.LeaseWork (l.foldl (State.resetRelease c) r).1 := by
  induction l generalizing r with
  | nil => exact .refl _
  | cons i l ih => exact (State.resetRelease_work c r i).trans (ih _)

theorem State.channelReset_work (s : State) (c : Channel) : s.LeaseWork (s.channelReset c) := by
  have key : ∀ (l : List EntryIx) (tags : List Tag) (u : State) (r : State × List Tag),
      u = l.foldl (State.resetDetach c) (l.foldl (State.resetFree c) (s.resetEvents c)) →
      r = l.foldl (State.resetRelease c) (u, []) → s.LeaseWork (r.1.examineTags tags r.2) := fun l tags u r hu hr => by
    subst hr
    refine State.LeaseWork.trans ?_ (State.examineTags_work _ _ _)
    refine State.LeaseWork.trans ?_ (State.resetReleases_work c l (u, []))
    subst hu
    exact (s.resetEvents_work c).trans ((State.foldl_work (State.resetFree_work c) l _).trans
      (State.foldl_work (State.resetDetach_work c) l _))
  exact key allIx _ _ _ rfl rfl

/-! ### A change of the station state (R47) -/

theorem State.changeEntry_work (cause : DenyCause) (s : State) (i : EntryIx) : s.LeaseWork (State.changeEntry cause s i) := by
  unfold State.changeEntry
  split
  · exact .refl s
  · split
    · split
      · exact s.deny_work i _ _
      · exact s.endTenancy_work i
    · exact s.deny_work i _ _
    · exact s.endTenancy_work i
    all_goals exact .refl s

theorem State.applyChange_work (s : State) (x : StationState) : (s.setTaken x).LeaseWork (s.applyChange x) :=
  (State.foldl_work (State.changeEntry_work _) _ _).trans (State.examineTags_work _ _ _)

/-! ### Frames -/

theorem State.claimReturn_work (s : State) (serial : Byte) (tag : Tag) (held yield : Bool) (objector : Option StationNo) :
    s.LeaseWork (s.claimReturn serial tag held yield objector) := by
  unfold State.claimReturn
  repeat' split
  all_goals first
    | exact .refl s
    | exact s.endAndExamine_work _ _
    | exact s.failAttempt_work _ _ _
    | exact (s.grant_work _ _).trans (State.examine_work _ _)

theorem State.releaseReturn_work (s : State) (serial : Byte) (tag : Tag) : s.LeaseWork (s.releaseReturn serial tag) := by
  unfold State.releaseReturn
  split
  · exact .refl s
  · exact s.endAndExamine_work _ _

theorem State.demandOn_work (tag : Tag) (claimant : StationNo) (s : State) (i : EntryIx) :
    s.LeaseWork (State.demandOn tag claimant s i) := by
  unfold State.demandOn
  split
  · exact .refl s
  · split
    · split
      · dsimp only
        split
        · exact s.leaseWork_modifyTenancy _ _ (by simp)
        · exact (s.leaseWork_modifyTenancy _ _ (by simp)).trans (State.raiseLease_work _ _ _ _)
      · exact .refl s
    all_goals exact .refl s

theorem State.setLost_work (s : State) (i : EntryIx) : s.LeaseWork (s.modifyTenancy i Tenancy.setLost) :=
  s.leaseWork_modifyTenancy _ _ fun v => by unfold Tenancy.setLost; split <;> simp

theorem State.claimPasses_work (s : State) (tag : Tag) (m : Mode) (standing : Nat) (claimant : StationNo) (k : ClaimMarks) :
    s.LeaseWork (s.claimPasses tag m standing claimant k).1 := by
  have holder : s.LeaseWork (s.objectAsHolder tag claimant k).1 := by
    unfold State.objectAsHolder
    generalize allIx = l
    exact State.foldl_work (State.demandOn_work tag claimant) l s
  unfold State.claimPasses
  split
  · exact holder
  · split
    · exact holder
    · exact .refl s
  · split
    · unfold State.contest; dsimp only
      split
      · exact .refl s
      · split
        · exact s.setLost_work _
        · exact s.setLost_work _
    · exact .refl s
  · exact .refl s

theorem State.releasePasses_work (s : State) (tag : Tag) : s.LeaseWork (s.releasePasses tag) := by
  unfold State.releasePasses
  split
  · exact s.enterClaiming_work _
  · exact .refl s

/-! ### What arrivals and the station leave alone -/

/-- The state differs in entries, lists, event state, station record, line and the count of choices alone: the queue of
commands, the ports with the copies they shift out, the unit identity, the clock, the configuration, the serial counter, every
generation and every FREE entry stay. -/
structure State.BlockWork (s t : State) : Prop where
  pending : t.pending = s.pending
  rstnLow : t.rstnLow = s.rstnLow
  ports : t.ports = s.ports
  copies : ∀ c, (t.channel c).readCopy = (s.channel c).readCopy
  identity : t.identity = s.identity
  time : t.time = s.time
  config : t.config = s.config
  serial : t.frames.serial = s.frames.serial
  generation : ∀ i, (t.entry i).generation = (s.entry i).generation
  free : ∀ i, s.tenancy i = none → t.tenancy i = none

theorem State.LeaseWork.block {s t : State} (h : s.LeaseWork t) : s.BlockWork t :=
  ⟨h.pending, h.rstnLow, h.ports, fun c => (h.reads c).2.2, h.identity, h.time, h.config, h.serial, h.generation, h.free⟩

theorem State.BlockWork.refl (s : State) : s.BlockWork s := (State.LeaseWork.refl s).block

theorem State.BlockWork.trans {s t u : State} (h : s.BlockWork t) (k : t.BlockWork u) : s.BlockWork u where
  pending := k.pending.trans h.pending
  rstnLow := k.rstnLow.trans h.rstnLow
  ports := k.ports.trans h.ports
  copies := fun c => (k.copies c).trans (h.copies c)
  identity := k.identity.trans h.identity
  time := k.time.trans h.time
  config := k.config.trans h.config
  serial := k.serial.trans h.serial
  generation := fun i => (k.generation i).trans (h.generation i)
  free := fun i hi => k.free i (h.free i hi)

/-- An update that leaves the named parts, the channels and the entries as they stand is block work. -/
theorem State.blockWork_of {s t : State} (h1 : t.pending = s.pending) (h2 : t.identity = s.identity) (h3 : t.time = s.time)
    (h4 : t.config = s.config) (h5 : t.frames.serial = s.frames.serial) (h6 : t.lease.entries = s.lease.entries)
    (h7 : t.rstnLow = s.rstnLow) (h8 : t.ports = s.ports) (h9 : t.channels = s.channels) : s.BlockWork t :=
  ⟨h1, h7, h8, fun c => by simp [State.channel, h9], h2, h3, h4, h5, fun i => by simp [State.entry, h6],
    fun i => by simp [State.tenancy, State.entry, h6]⟩

theorem State.modifyStation_block (s : State) (f : StationRecord → StationRecord) : s.BlockWork (s.modifyStation f) :=
  State.blockWork_of rfl rfl rfl rfl rfl rfl rfl rfl rfl

theorem State.modifyLine_block (s : State) (f : LineInterface → LineInterface) : s.BlockWork (s.modifyLine f) :=
  State.blockWork_of rfl rfl rfl rfl rfl rfl rfl rfl rfl

theorem State.setTaken_block (s : State) (x : StationState) : s.BlockWork (s.setTaken x) :=
  State.blockWork_of rfl rfl rfl rfl rfl rfl rfl rfl rfl

theorem State.modifyChannel_block (s : State) (c : Channel) (f : ChannelState → ChannelState)
    (hf : ∀ x, (f x).readCopy = x.readCopy) : s.BlockWork (s.modifyChannel c f) :=
  ⟨rfl, rfl, rfl, fun d => by rw [State.modifyChannel_channel]; split <;> simp_all, rfl, rfl, rfl, rfl, fun _ => rfl,
    fun _ h => h⟩

theorem State.completeFrame_block (s : State) (store : List Word) (violation overlong cutShort : Bool) :
    s.BlockWork (s.completeFrame store violation overlong cutShort) :=
  State.blockWork_of rfl rfl rfl rfl rfl rfl rfl rfl rfl

/-! ### What the judging of a frame leaves alone besides -/

/-- Block work that also keeps the frames that wait to be judged, the insertion mode, leaving, and whether the station is
OFFLINE. -/
structure State.JudgeWork (s t : State) : Prop where
  block : s.BlockWork t
  arrivals : t.frames.arrivals = s.frames.arrivals
  mode : t.line.mode = s.line.mode
  leaving : t.station.leaving = s.station.leaving
  offline : t.station.state = .offline ↔ s.station.state = .offline

theorem State.LeaseWork.judge {s t : State} (h : s.LeaseWork t) : s.JudgeWork t :=
  ⟨h.block, h.arrivals, by rw [h.line], by rw [h.station], by rw [h.station]⟩

theorem State.JudgeWork.refl (s : State) : s.JudgeWork s := (State.LeaseWork.refl s).judge

theorem State.JudgeWork.trans {s t u : State} (h : s.JudgeWork t) (k : t.JudgeWork u) : s.JudgeWork u where
  block := h.block.trans k.block
  arrivals := k.arrivals.trans h.arrivals
  mode := k.mode.trans h.mode
  leaving := k.leaving.trans h.leaving
  offline := k.offline.trans h.offline

theorem State.modifyStation_judge (s : State) {f : StationRecord → StationRecord}
    (hl : (f s.station).leaving = s.station.leaving) (ho : (f s.station).state = .offline ↔ s.station.state = .offline) :
    s.JudgeWork (s.modifyStation f) := ⟨s.modifyStation_block f, rfl, rfl, hl, ho⟩

theorem State.modifyLine_judge (s : State) {f : LineInterface → LineInterface} (hm : (f s.line).mode = s.line.mode) :
    s.JudgeWork (s.modifyLine f) := ⟨s.modifyLine_block f, rfl, hm, rfl, .rfl⟩

theorem State.setTaken_judge (s : State) (x : StationState) : s.JudgeWork (s.setTaken x) :=
  ⟨s.setTaken_block x, rfl, rfl, rfl, .rfl⟩

theorem State.setChanges_judge (s : State) (cs : List StationState) : s.JudgeWork (s.setChanges cs) :=
  ⟨State.blockWork_of rfl rfl rfl rfl rfl rfl rfl rfl rfl, rfl, rfl, rfl, .rfl⟩

theorem State.tellLease_judge (s : State) (x : StationState) : s.JudgeWork (s.tellLease x) := by
  unfold State.tellLease; split
  · exact s.setTaken_judge _
  · exact s.setChanges_judge _

theorem State.absorbUp_changes_le (s : State) : s.absorbUp.lease.changes.length ≤ s.lease.changes.length := by
  unfold State.absorbUp; split
  · next h => simp [h]
  · exact Nat.le_refl _

/-- Each taking shortens the list of changes, so that taking them one after the other comes to an end. -/
theorem State.takeChange_shorter (s : State) (h : s.lease.changes ≠ []) :
    s.takeChange.lease.changes.length < s.lease.changes.length := by
  unfold State.takeChange; split
  · next hc => exact absurd hc h
  · next hc => unfold State.absorbUp; simp [hc]
  · next hc =>
    refine Nat.lt_of_le_of_lt (State.absorbUp_changes_le _) ?_
    rw [(State.applyChange_work _ _).changes]; simp [hc]

theorem State.takeChange_judge (s : State) : s.JudgeWork s.takeChange := by
  have ab : ∀ u : State, u.JudgeWork u.absorbUp := fun u => by
    unfold State.absorbUp; split
    · exact (u.setTaken_judge _).trans (State.setChanges_judge _ _)
    · exact .refl u
  unfold State.takeChange; split
  · exact .refl s
  · exact ab s
  · exact (s.setChanges_judge _).trans ((State.setTaken_judge _ _).trans ((State.applyChange_work _ _).judge.trans (ab _)))

theorem State.takeChangesN_judge (n : Nat) (s : State) : s.JudgeWork (State.takeChangesN n s) := by
  induction n generalizing s with
  | zero => exact .refl s
  | succ n ih => exact s.takeChange_judge.trans (ih _)

theorem State.drawOrder_judge (s : State) : s.JudgeWork s.drawOrder := by
  have h : s.JudgeWork { s with choices := s.choices + 1 } :=
    ⟨State.blockWork_of rfl rfl rfl rfl rfl rfl rfl rfl rfl, rfl, rfl, rfl, .rfl⟩
  unfold State.drawOrder; split
  · exact h.trans (State.takeChangesN_judge _ _)
  · exact h

theorem State.addCensus_judge (s : State) : s.JudgeWork s.addCensus := by
  unfold State.addCensus; split
  · exact (s.modifyStation_judge rfl .rfl).trans (State.leaseWork_setSendList _ _).judge
  · exact .refl s

theorem State.enterDown_judge (s : State) (cause : RingCause) : s.JudgeWork (s.enterDown cause) := by
  unfold State.enterDown; split
  · next h =>
    exact (s.modifyStation_judge rfl (by simp [h])).trans
      ((State.raiseStation_work _ _ _).judge.trans (State.tellLease_judge _ _))
  · exact .refl s

theorem State.enterHalted_judge (s : State) : s.JudgeWork s.enterHalted := by
  unfold State.enterHalted; split
  · next h =>
    exact (s.modifyStation_judge rfl (by rcases h with h | h | h <;> simp [h])).trans
      ((State.leaseWork_setSendList _ _).judge.trans
        ((State.raiseStation_work _ _ _).judge.trans (State.tellLease_judge _ _)))
  · exact .refl s

theorem State.enterUp_judge {s : State} (h : s.station.state ≠ .offline) (members : List Member) (cause : RingCause) :
    s.JudgeWork (s.enterUp members cause) :=
  (s.modifyStation_judge rfl (by simp [h])).trans ((State.raiseStation_work _ _ _).judge.trans (State.tellLease_judge _ _))

theorem State.reportDamaged_judge (s : State) : s.JudgeWork s.reportDamaged := by
  have h : s.JudgeWork (if s.station.faultWarning = false ∧ Config.warnAt ≤ scoreDamaged s.station.faultScore then
      (((s.modifyStation ({ · with faultScore := scoreDamaged s.station.faultScore })).modifyStation
        ({ · with faultWarning := true })).raiseStation .faults
        (.faultWarning s.station.timestamp (scoreDamaged s.station.faultScore) true))
      else s.modifyStation ({ · with faultScore := scoreDamaged s.station.faultScore })) := by
    split
    · exact (s.modifyStation_judge rfl .rfl).trans
        ((State.modifyStation_judge _ rfl .rfl).trans (State.raiseStation_work _ _ _).judge)
    · exact s.modifyStation_judge rfl .rfl
  unfold State.reportDamaged; dsimp only; split
  · exact h.trans (State.enterDown_judge _ _)
  · exact h

theorem State.reportIntact_judge (s : State) : s.JudgeWork s.reportIntact := by
  unfold State.reportIntact; dsimp only; split
  · exact (s.modifyStation_judge rfl .rfl).trans
      ((State.modifyStation_judge _ rfl .rfl).trans (State.raiseStation_work _ _ _).judge)
  · exact s.modifyStation_judge rfl .rfl

theorem State.raiseMembership_judge (s : State) (previous members : List Member) :
    s.JudgeWork (s.raiseMembership previous members) := by
  unfold State.raiseMembership; split
  · exact .refl s
  · exact (State.raiseStation_work _ _ _).judge

theorem State.adoptCensus_judge (s : State) (members : List Member) : s.JudgeWork (s.adoptCensus members) := by
  unfold State.adoptCensus; split
  · next h => exact State.enterUp_judge (by simp [h]) _ _
  · exact (s.modifyStation_judge rfl .rfl).trans (State.raiseMembership_judge _ _ _)
  · next h =>
    split
    · exact (State.enterUp_judge (by simp [h]) _ _).trans (State.raiseMembership_judge _ _ _)
    · exact s.modifyStation_judge rfl .rfl
  all_goals exact .refl s

theorem State.censusReturn_judge (s : State) (serial : Byte) (members : List Member) :
    s.JudgeWork (s.censusReturn serial members) := by
  unfold State.censusReturn; split
  · split
    · dsimp only; split
      · exact (s.modifyStation_judge rfl .rfl).trans (State.enterHalted_judge _)
      · exact (s.modifyStation_judge rfl .rfl).trans (State.adoptCensus_judge _ _)
    · exact .refl s
  all_goals exact .refl s

theorem State.intoTransit_judge (s : State) (ws : List Word) : s.JudgeWork (s.intoTransit ws) := by
  unfold State.intoTransit; split
  · exact s.modifyLine_judge rfl
  · exact .refl s

theorem State.passFrame_judge (s : State) (f : Frame) (ws : List Word) : s.JudgeWork (s.passFrame f ws) := by
  have h : ∀ m, s.JudgeWork (if s.listsDuplicate m = true then s.enterHalted else s) := fun m => by
    split
    · exact s.enterHalted_judge
    · exact .refl s
  unfold State.passFrame; split
  · exact (s.claimPasses_work _ _ _ _ _).judge.trans (State.intoTransit_judge _ _)
  · exact (s.releasePasses_work _).judge.trans (State.intoTransit_judge _ _)
  · dsimp only; split
    · exact h _
    · exact (h _).trans (State.intoTransit_judge _ _)

theorem State.ownReturn_judge (s : State) (f : Frame) : s.JudgeWork (s.ownReturn f) := by
  unfold State.ownReturn; split
  · exact (State.claimReturn_work _ _ _ _ _ _).judge
  · exact (State.releaseReturn_work _ _ _).judge
  · exact State.censusReturn_judge _ _ _

theorem State.foreignFrame_judge (s : State) (f : Frame) (ws : List Word) : s.JudgeWork (s.foreignFrame f ws) := by
  have h : s.JudgeWork (if s.ownNumber f then s.enterHalted else s) := by
    split
    · exact s.enterHalted_judge
    · exact .refl s
  have k : ∀ u : State, u.JudgeWork (if s.reportsDuplicate f then u.drawOrder else u) := fun u => by
    split
    · exact u.drawOrder_judge
    · exact .refl u
  unfold State.foreignFrame; dsimp only; split
  · exact h
  · exact h.trans ((k _).trans (State.passFrame_judge _ _ _))

/-- What one arrival can do (R79 to R84). -/
theorem State.takeArrival_judge (s : State) (a : Arrival) : s.JudgeWork (s.takeArrival a) := by
  unfold State.takeArrival; split
  · exact s.reportDamaged_judge
  · dsimp only; split
    · exact s.reportIntact_judge.trans (State.ownReturn_judge _ _)
    · exact s.reportIntact_judge.trans (State.foreignFrame_judge _ _ _)

/-- What the judging of the oldest completed frame can do: the frames behind it wait on (R79). -/
theorem State.judgeNext_judge (s : State) (a : Arrival) (rest : List Arrival) :
    (s.modifyFrames ({ · with arrivals := rest })).JudgeWork (s.judgeNext a rest) := by
  unfold State.judgeNext; dsimp only; split
  · exact State.takeArrival_judge _ _
  · exact .refl _

/-- What the judging of the frames that wait can do, none of them waiting afterwards (R104). -/
theorem State.judgeWaiting_judge (l : List Arrival) (s : State) (h : s.frames.arrivals = l) :
    (s.modifyFrames ({ · with arrivals := [] })).JudgeWork (State.judgeWaiting l s) := by
  have set : ∀ u v : State, u.JudgeWork v →
      (u.modifyFrames ({ · with arrivals := [] })).JudgeWork (v.modifyFrames ({ · with arrivals := [] })) :=
    fun u v k => ⟨⟨k.block.pending, k.block.rstnLow, k.block.ports, k.block.copies, k.block.identity, k.block.time,
      k.block.config, k.block.serial, k.block.generation, k.block.free⟩, rfl, k.mode, k.leaving, k.offline⟩
  induction l generalizing s with
  | nil =>
    have : s.modifyFrames ({ · with arrivals := [] }) = s := by
      rw [State.modifyFrames]; rw [← h]
    rw [this]; exact .refl s
  | cons a l ih =>
    have k := s.judgeNext_judge a l
    exact (set _ _ k).trans (ih (s.judgeNext a l) k.arrivals)

/-! ### Words received and silence -/

theorem State.receive_block (s : State) (w : LineWord) : s.BlockWork (s.receive w) := by
  have h : ∀ store v o c r, s.BlockWork ((s.completeFrame store v o c).setReceiver r) := fun store v o c r =>
    (s.completeFrame_block _ _ _ _).trans (State.modifyLine_block _ _)
  unfold State.receive
  repeat' split
  all_goals first
    | exact .refl s
    | exact s.modifyLine_block _
    | exact h _ _ _ _ _

theorem State.detectWord_block (s : State) : s.BlockWork s.detectWord := by
  have rp : ∀ u : State, u.BlockWork u.reportPresent := fun u => by
    unfold State.reportPresent; split
    · exact u.addCensus_judge.block
    · exact .refl u
  unfold State.detectWord; dsimp only; split
  · exact (s.modifyLine_block _).trans (rp _)
  · exact s.modifyLine_block _

theorem State.becomeSilent_block (s : State) : s.BlockWork s.becomeSilent := by
  unfold State.becomeSilent; dsimp only
  refine State.BlockWork.trans ?_ ((State.modifyLine_block _ _).trans (State.enterDown_judge _ _).block)
  split
  · exact .refl s
  · exact (s.completeFrame_block _ _ _ _).trans (State.modifyLine_block _ _)

end Sys2Proof.Machine
end

