-- ==== Sys2Proof/Laws/Examine.lean ====
section
/-! SUPPORT. What an examination and a hand-on do to the entries, said once: they take waiting entries out of the lists, and touch
nothing that does not wait. -/

namespace Sys2Proof.Machine

/-- Where an examination can take the entries: one that does not wait stays as it is; one that waits goes on waiting unchanged, or
becomes HELD, or CLAIMING with its frame queued, or CLOSING, or FREE. CLAIMING comes only with the table's station state UP, and
the channel of no waiting entry is untouched. -/
structure State.TreatsWaiters (s t : State) : Prop where
  work : s.LeaseWork t
  others : ∀ i u, s.tenancy i = some u → u.isQueued = false → t.tenancy i = some u
  waiters : ∀ i v, t.tenancy i = some v → v.isQueued = true → s.tenancy i = some v
  claims : ∀ i v phase lost, t.tenancy i = some v → v.state = .claiming phase lost → s.tenancy i = some v ∨ s.lease.taken = .up
  backoffs : ∀ i v timer, t.tenancy i = some v → v.state = .backoff timer → s.tenancy i = some v
  releases : ∀ i v phase, t.tenancy i = some v → v.state = .releasing phase → s.tenancy i = some v
  sends : ∀ item ∈ t.frames.sendList, item ∈ s.frames.sendList ∨ s.lease.taken = .up
  channels : ∀ c, (∀ i u, s.tenancy i = some u → u.isQueued = true → u.owner ≠ c) → t.channel c = s.channel c

theorem State.TreatsWaiters.refl (s : State) : s.TreatsWaiters s where
  work := .refl s
  others := fun _ _ h _ => h
  waiters := fun _ _ h _ => h
  claims := fun _ _ _ _ h _ => .inl h
  backoffs := fun _ _ _ h _ => h
  releases := fun _ _ _ h _ => h
  sends := fun _ h => .inl h
  channels := fun _ _ => rfl

theorem State.TreatsWaiters.trans {s t u : State} (h : s.TreatsWaiters t) (k : t.TreatsWaiters u) : s.TreatsWaiters u where
  work := h.work.trans k.work
  others := fun i v hv hq => k.others i v (h.others i v hv hq) hq
  waiters := fun i v hv hq => h.waiters i v (k.waiters i v hv hq) hq
  claims := fun i v phase lost hv hs => by
    rcases k.claims i v phase lost hv hs with hv | hu
    · exact h.claims i v phase lost hv hs
    · exact .inr (by rw [← h.work.taken]; exact hu)
  backoffs := fun i v timer hv hs => h.backoffs i v timer (k.backoffs i v timer hv hs) hs
  releases := fun i v phase hv hs => h.releases i v phase (k.releases i v phase hv hs) hs
  sends := fun item hi => by
    rcases k.sends item hi with hi | hu
    · exact h.sends item hi
    · exact .inr (by rw [← h.work.taken]; exact hu)
  channels := fun c hc => (k.channels c fun i v hv hq => hc i v (h.waiters i v hv hq) hq).trans (h.channels c hc)

/-- A notice raised touches the event state of the entry's owner alone. -/
theorem State.raiseLease_channel {s : State} {i : EntryIx} {t : Tenancy} {c : Channel} (ht : s.tenancy i = some t)
    (hc : t.owner ≠ c) (kind : LeaseKind) (marks : Marks) : (s.raiseLease i kind marks).channel c = s.channel c := by
  unfold State.raiseLease
  simp only [ht]
  split
  · simp [State.modifyChannel_channel, hc]
  · split
    · simp [State.modifyChannel_channel, hc]
    · simp

theorem State.grant_channel {s : State} {i : EntryIx} {t : Tenancy} {c : Channel} (ht : s.tenancy i = some t)
    (hc : t.owner ≠ c) (handedOn : Bool) : (s.grant i handedOn).channel c = s.channel c := by
  simp only [State.grant, ht]
  rw [State.raiseLease_channel (t := t.enterHeld) (by simp [ht]) (by simpa [Tenancy.enterHeld] using hc)]
  simp

theorem State.deny_channel {s : State} {i : EntryIx} {t : Tenancy} {c : Channel} (ht : s.tenancy i = some t)
    (hc : t.owner ≠ c) (cause : DenyCause) (objector : Option StationNo) :
    (s.deny i cause objector).channel c = s.channel c := by
  simp only [State.deny, ht, State.channel, State.endTenancy_channels]
  exact State.raiseLease_channel ht hc _ _

/-- A waiting entry taken out of the lists and granted. -/
theorem State.grant_treats {s : State} {i : EntryIx} {t : Tenancy} (ht : s.tenancy i = some t) (hq : t.isQueued = true)
    (handedOn : Bool) : s.TreatsWaiters ((s.leaveWaiting i).grant i handedOn) := by
  have ten : ∀ j, ∃ d, ((s.leaveWaiting i).grant i handedOn).tenancy j =
      if j = i then some { t.enterHeld with deferred := d } else s.tenancy j := fun j => by
    obtain ⟨d, hd⟩ := (s.leaveWaiting i).grant_tenancy i j handedOn
    refine ⟨d, hd.trans ?_⟩
    have : (s.leaveWaiting i).tenancy i = some t := ht
    rw [this]; rfl
  have held : ∀ j v, ((s.leaveWaiting i).grant i handedOn).tenancy j = some v →
      (∃ r, v.state = .held r false) ∨ s.tenancy j = some v := fun j v hv => by
    obtain ⟨d, hd⟩ := ten j
    rw [hd] at hv
    split at hv
    · left; simp only [Option.some.injEq] at hv; exact ⟨t.term, by rw [← hv]; rfl⟩
    · exact .inr hv
  refine ⟨(s.leaveWaiting_work i).trans (State.grant_work _ _ _), fun j u hj hu => ?_, fun j v hv hvq => ?_,
    fun j v phase lost hv hs => ?_, fun j v timer hv hs => ?_, fun j v phase hv hs => ?_, fun item hi => ?_, fun c hc => ?_⟩
  · obtain ⟨d, hd⟩ := ten j
    rw [hd, if_neg]
    · exact hj
    · rintro rfl; rw [ht, Option.some.injEq] at hj; subst hj; rw [hq] at hu; cases hu
  · rcases held j v hv with ⟨r, hr⟩ | h
    · simp [Tenancy.isQueued, hr, EntryState.name] at hvq
    · exact h
  · rcases held j v hv with ⟨r, hr⟩ | h
    · rw [hr] at hs; cases hs
    · exact .inl h
  · rcases held j v hv with ⟨r, hr⟩ | h
    · rw [hr] at hs; cases hs
    · exact h
  · rcases held j v hv with ⟨r, hr⟩ | h
    · rw [hr] at hs; cases hs
    · exact h
  · rw [State.grant_frames] at hi; exact .inl hi
  · exact State.grant_channel (s := s.leaveWaiting i) (t := t) ht (hc i t ht hq) _

/-- A waiting entry taken out of the lists and denied. -/
theorem State.deny_treats {s : State} {i : EntryIx} {t : Tenancy} (ht : s.tenancy i = some t) (hq : t.isQueued = true)
    (cause : DenyCause) (objector : Option StationNo) : s.TreatsWaiters ((s.leaveWaiting i).deny i cause objector) := by
  have closing : ∀ j v, ((s.leaveWaiting i).deny i cause objector).tenancy j = some v →
      v.state = .closing ∨ s.tenancy j = some v := fun j v hv => by
    have h := (s.leaveWaiting i).deny_tenancy i j cause objector
    by_cases e : j = i
    · subst e
      obtain ⟨u, d, -, rfl⟩ := h.2 v hv
      exact .inl rfl
    · rw [h.1 e] at hv; exact .inr hv
  refine ⟨(s.leaveWaiting_work i).trans (State.deny_work _ _ _ _), fun j u hj hu => ?_, fun j v hv hvq => ?_,
    fun j v phase lost hv hs => ?_, fun j v timer hv hs => ?_, fun j v phase hv hs => ?_, fun item hi => ?_, fun c hc => ?_⟩
  · rw [((s.leaveWaiting i).deny_tenancy i j cause objector).1]
    · exact hj
    · rintro rfl; rw [ht, Option.some.injEq] at hj; subst hj; rw [hq] at hu; cases hu
  · rcases closing j v hv with h | h
    · simp [Tenancy.isQueued, h, EntryState.name] at hvq
    · exact h
  · rcases closing j v hv with h | h
    · rw [h] at hs; cases hs
    · exact .inl h
  · rcases closing j v hv with h | h
    · rw [h] at hs; cases hs
    · exact h
  · rcases closing j v hv with h | h
    · rw [h] at hs; cases hs
    · exact h
  · exact .inl (State.deny_sendList_le (s.leaveWaiting i) i cause objector item hi)
  · exact State.deny_channel (s := s.leaveWaiting i) (t := t) ht (hc i t ht hq) _ _

/-- A waiting entry taken out of the lists and sent to the ring, with the table's station state UP. -/
theorem State.enterClaiming_treats {s : State} {i : EntryIx} {t : Tenancy} (ht : s.tenancy i = some t)
    (hq : t.isQueued = true) (hu : s.lease.taken = .up) : s.TreatsWaiters ((s.leaveWaiting i).enterClaiming i) := by
  have ten : ∀ j, ((s.leaveWaiting i).enterClaiming i).tenancy j =
      if j = i then some { t with state := .claiming .queued false } else s.tenancy j := fun j => by
    have : (s.leaveWaiting i).tenancy i = some t := ht
    by_cases e : j = i
    · subst e; simp [State.enterClaiming, this]
    · simp [State.enterClaiming, State.modifyTenancy_tenancy, e, Ne.symm e]; rfl
  have claiming : ∀ j v, ((s.leaveWaiting i).enterClaiming i).tenancy j = some v →
      v.state = .claiming .queued false ∨ s.tenancy j = some v := fun j v hv => by
    rw [ten] at hv; split at hv
    · left; simp only [Option.some.injEq] at hv; rw [← hv]
    · exact .inr hv
  refine ⟨(s.leaveWaiting_work i).trans (State.enterClaiming_work _ _), fun j u hj hu => ?_, fun j v hv hvq => ?_,
    fun j v phase lost hv hs => .inr hu, fun j v timer hv hs => ?_, fun j v phase hv hs => ?_, fun item hi => .inr hu,
    fun c hc => rfl⟩
  · rw [ten, if_neg]
    · exact hj
    · rintro rfl; rw [ht, Option.some.injEq] at hj; subst hj; rw [hq] at hu; cases hu
  · rcases claiming j v hv with h | h
    · simp [Tenancy.isQueued, h, EntryState.name] at hvq
    · exact h
  · rcases claiming j v hv with h | h
    · rw [h] at hs; cases hs
    · exact h
  · rcases claiming j v hv with h | h
    · rw [h] at hs; cases hs
    · exact h

theorem State.treatHead_treats {s : State} {i : EntryIx} {t : Tenancy} (ht : s.tenancy i = some t) (hq : t.isQueued = true)
    (tag : Tag) (m : Mode) : s.TreatsWaiters (s.treatHead i tag m).1 := by
  unfold State.treatHead
  split
  · exact .refl s
  · exact .refl s
  · exact State.grant_treats ht hq false
  · split
    · next hu => exact State.enterClaiming_treats ht hq hu
    · exact State.deny_treats ht hq _ none

theorem State.examineLoop_treats (tag : Tag) (n : Nat) (s : State) : s.TreatsWaiters (s.examineLoop tag n) := by
  induction n generalizing s with
  | zero => exact .refl s
  | succ n ih =>
    unfold State.examineLoop
    split
    · exact .refl s
    · next i rest hw =>
      split
      · exact .refl s
      · next t ht =>
        have hq : t.isQueued = true := by
          obtain ⟨-, u, hu, -, hq⟩ := State.mem_waitList.1 (hw ▸ List.mem_cons_self : i ∈ s.waitList tag)
          rw [ht, Option.some.injEq] at hu; subst hu; exact hq
        dsimp only
        split
        · exact (State.treatHead_treats ht hq tag t.mode).trans (ih _)
        · exact State.treatHead_treats ht hq tag t.mode

/-- An examination treats waiting entries alone (R21 to R23). -/
theorem State.examine_treats (s : State) (tag : Tag) : s.TreatsWaiters (s.examine tag) := State.examineLoop_treats _ _ _

/-- A hand-on takes the head of the wait list and nothing else (R58). -/
theorem State.handOn_treats (s : State) (tag : Tag) : s.TreatsWaiters (s.handOn tag) := by
  unfold State.handOn
  split
  · exact .refl s
  · next i rest hw =>
    obtain ⟨-, u, hu, -, hq⟩ := State.mem_waitList.1 (hw ▸ List.mem_cons_self : i ∈ s.waitList tag)
    exact State.grant_treats hu hq true

theorem State.examineAfter_treats (s : State) (tag : Tag) (handOn : Bool) : s.TreatsWaiters (s.examineAfter tag handOn) := by
  unfold State.examineAfter
  split
  · exact (s.handOn_treats tag).trans (State.examine_treats _ _)
  · exact s.examine_treats tag

theorem State.examineTags_treats (s : State) (tags handOns : List Tag) : s.TreatsWaiters (s.examineTags tags handOns) := by
  unfold State.examineTags
  induction tags generalizing s with
  | nil => exact .refl s
  | cons tag tags ih => exact (s.examineAfter_treats tag _).trans (ih _)

end Sys2Proof.Machine
end

