-- ==== Sys2Proof/Laws/Frames.lean ====
section
/-! SUPPORT. Records and frames word by word: fields taken out of joined bits, the CRC, what a parsed frame's words are, and the
list entries of a census. -/

namespace Sys2Proof.Machine

/-! ### Fields of joined bits -/

theorem bytes_of_tag (x : BitVec 24) : x.extractLsb' 16 8 ++ x.extractLsb' 8 8 ++ x.extractLsb' 0 8 = x := by
  apply BitVec.eq_of_getLsbD_eq
  intro i hi
  simp only [BitVec.getLsbD_append, BitVec.getLsbD_extractLsb']
  interval_cases i <;> simp

theorem bytes_of_word (x : BitVec 16) : x.extractLsb' 8 8 ++ x.extractLsb' 0 8 = x := by
  apply BitVec.eq_of_getLsbD_eq
  intro i hi
  simp only [BitVec.getLsbD_append, BitVec.getLsbD_extractLsb']
  interval_cases i <;> simp

theorem tag_of_words (x : BitVec 24) : x.extractLsb' 16 8 ++ x.extractLsb' 0 16 = x := by
  apply BitVec.eq_of_getLsbD_eq
  intro i hi
  simp only [BitVec.getLsbD_append, BitVec.getLsbD_extractLsb']
  interval_cases i <;> simp

theorem identity_of_words (x : BitVec 32) : x.extractLsb' 16 16 ++ x.extractLsb' 0 16 = x := by
  apply BitVec.eq_of_getLsbD_eq
  intro i hi
  simp only [BitVec.getLsbD_append, BitVec.getLsbD_extractLsb']
  interval_cases i <;> simp

/-- The flag bits of SET WINDOW's byte 10 (R186). -/
theorem windowFlags_bits (enabled shared exclusive : Bool) :
    (windowFlags enabled shared exclusive).getLsbD 0 = enabled ∧
      (windowFlags enabled shared exclusive).getLsbD 1 = shared ∧
      (windowFlags enabled shared exclusive).getLsbD 2 = exclusive := by
  revert enabled shared exclusive; decide

/-- Word 0 of an originated frame (R189). -/
theorem word0_fields (kind : BitVec 2) (source hop : BitVec 6) :
    (kind ++ source ++ (0 : BitVec 2) ++ hop : BitVec 16).extractLsb' 14 2 = kind ∧
      (kind ++ source ++ (0 : BitVec 2) ++ hop : BitVec 16).extractLsb' 8 6 = source ∧
      (kind ++ source ++ (0 : BitVec 2) ++ hop : BitVec 16).extractLsb' 0 6 = hop := by
  refine ⟨?_, ?_, ?_⟩ <;> apply BitVec.eq_of_getLsbD_eq <;> intro i hi <;>
    simp only [BitVec.getLsbD_append, BitVec.getLsbD_extractLsb'] <;> interval_cases i <;> simp

/-- Word 2 of an originated frame (R189). -/
theorem word2_fields (serial low : BitVec 8) :
    (serial ++ low : BitVec 16).extractLsb' 0 8 = low ∧ (serial ++ low : BitVec 16).extractLsb' 8 8 = serial := by
  refine ⟨?_, ?_⟩ <;> apply BitVec.eq_of_getLsbD_eq <;> intro i hi <;>
    simp only [BitVec.getLsbD_append, BitVec.getLsbD_extractLsb'] <;> interval_cases i <;> simp

theorem hopWord_fields (w0 : BitVec 16) (h : BitVec 6) :
    (w0.extractLsb' 6 10 ++ h : BitVec 16).extractLsb' 14 2 = w0.extractLsb' 14 2 ∧
      (w0.extractLsb' 6 10 ++ h : BitVec 16).extractLsb' 8 6 = w0.extractLsb' 8 6 ∧
      (w0.extractLsb' 6 10 ++ h : BitVec 16).extractLsb' 0 6 = h := by
  refine ⟨?_, ?_, ?_⟩ <;> apply BitVec.eq_of_getLsbD_eq <;> intro i hi <;>
    simp only [BitVec.getLsbD_append, BitVec.getLsbD_extractLsb'] <;> interval_cases i <;> simp

/-- Forwarding raises the hop count and keeps the rest of word 0 (R83). -/
theorem bumpHop_fields (w0 : Word) :
    (bumpHop w0).extractLsb' 14 2 = w0.extractLsb' 14 2 ∧ (bumpHop w0).extractLsb' 8 6 = w0.extractLsb' 8 6 ∧
      (bumpHop w0).extractLsb' 0 6 = w0.extractLsb' 0 6 + 1 := hopWord_fields w0 (w0.extractLsb' 0 6 + 1)

theorem flagBit_bit (b : Bool) : (flagBit b).getLsbD 0 = b := by cases b <;> rfl

/-- Word 4 of an originated CLAIM (R189). -/
theorem word4_fields (mode : BitVec 1) (standing : BitVec 4) (held yield : BitVec 1) (objector : BitVec 7) :
    (mode ++ standing ++ held ++ yield ++ (0 : BitVec 2) ++ objector : BitVec 16).getLsbD 15 = mode.getLsbD 0 ∧
      (mode ++ standing ++ held ++ yield ++ (0 : BitVec 2) ++ objector : BitVec 16).extractLsb' 11 4 = standing ∧
      (mode ++ standing ++ held ++ yield ++ (0 : BitVec 2) ++ objector : BitVec 16).getLsbD 10 = held.getLsbD 0 ∧
      (mode ++ standing ++ held ++ yield ++ (0 : BitVec 2) ++ objector : BitVec 16).getLsbD 9 = yield.getLsbD 0 ∧
      (mode ++ standing ++ held ++ yield ++ (0 : BitVec 2) ++ objector : BitVec 16).getLsbD 6 = objector.getLsbD 6 ∧
      (mode ++ standing ++ held ++ yield ++ (0 : BitVec 2) ++ objector : BitVec 16).extractLsb' 0 6 =
        objector.extractLsb' 0 6 := by
  refine ⟨?_, ?_, ?_, ?_, ?_, ?_⟩
  case' refine_2 => apply BitVec.eq_of_getLsbD_eq; intro i hi
  case' refine_6 => apply BitVec.eq_of_getLsbD_eq; intro i hi
  all_goals simp only [BitVec.getLsbD_append, BitVec.getLsbD_extractLsb']
  case' refine_2 => interval_cases i
  case' refine_6 => interval_cases i
  all_goals simp

theorem markedWord_fields (w4 : BitVec 16) (held yield : BitVec 1) (n : BitVec 6) :
    (w4.extractLsb' 11 5 ++ held ++ yield ++ w4.extractLsb' 7 2 ++ ((1 : BitVec 1) ++ n) : BitVec 16).getLsbD 15 =
        w4.getLsbD 15 ∧
      (w4.extractLsb' 11 5 ++ held ++ yield ++ w4.extractLsb' 7 2 ++ ((1 : BitVec 1) ++ n) : BitVec 16).extractLsb' 11 4 =
        w4.extractLsb' 11 4 ∧
      (w4.extractLsb' 11 5 ++ held ++ yield ++ w4.extractLsb' 7 2 ++ ((1 : BitVec 1) ++ n) : BitVec 16).getLsbD 10 =
        held.getLsbD 0 ∧
      (w4.extractLsb' 11 5 ++ held ++ yield ++ w4.extractLsb' 7 2 ++ ((1 : BitVec 1) ++ n) : BitVec 16).getLsbD 9 =
        yield.getLsbD 0 ∧
      (w4.extractLsb' 11 5 ++ held ++ yield ++ w4.extractLsb' 7 2 ++ ((1 : BitVec 1) ++ n) : BitVec 16).getLsbD 6 = true ∧
      (w4.extractLsb' 11 5 ++ held ++ yield ++ w4.extractLsb' 7 2 ++ ((1 : BitVec 1) ++ n) : BitVec 16).extractLsb' 0 6 =
        n := by
  refine ⟨?_, ?_, ?_, ?_, ?_, ?_⟩
  case' refine_2 => apply BitVec.eq_of_getLsbD_eq; intro i hi
  case' refine_6 => apply BitVec.eq_of_getLsbD_eq; intro i hi
  all_goals simp only [BitVec.getLsbD_append, BitVec.getLsbD_extractLsb']
  case' refine_2 => interval_cases i
  case' refine_6 => interval_cases i
  all_goals simp

/-- Word 4 of a CLAIM with marks and objector written: the marks and the objector are those written, mode and standing stay
(R83). -/
theorem markWord_fields (w4 : Word) (held yield : Bool) (n : StationNo) :
    (markWord w4 held yield (some n)).getLsbD 15 = w4.getLsbD 15 ∧
      (markWord w4 held yield (some n)).extractLsb' 11 4 = w4.extractLsb' 11 4 ∧
      (markWord w4 held yield (some n)).getLsbD 10 = held ∧ (markWord w4 held yield (some n)).getLsbD 9 = yield ∧
      (markWord w4 held yield (some n)).getLsbD 6 = true ∧
      (markWord w4 held yield (some n)).extractLsb' 0 6 = n := by
  have h := markedWord_fields w4 (flagBit held) (flagBit yield) n
  rw [flagBit_bit, flagBit_bit] at h
  exact h

theorem countedWord_field (w3 : BitVec 16) (x : BitVec 7) :
    (w3.extractLsb' 7 9 ++ x : BitVec 16).extractLsb' 0 7 = x := by
  apply BitVec.eq_of_getLsbD_eq; intro i hi
  simp only [BitVec.getLsbD_append, BitVec.getLsbD_extractLsb']; interval_cases i <;> simp

/-- The entry count field of a count word (R84). -/
theorem countWord_field (w3 : Word) (count : Nat) : (countWord w3 count).extractLsb' 0 7 = BitVec.ofNat 7 count :=
  countedWord_field w3 (BitVec.ofNat 7 count)

/-! ### The CRC and the header -/

/-- Words closed by their CRC have the right CRC (R190). -/
theorem crcMatches_withCrc (ws : List Word) : crcMatches (withCrc ws) = true := by simp [crcMatches, withCrc]

/-- What a frame of three words or more is, from its CRC and its contents (R78, R189). -/
theorem parseFrame_cons (w0 w1 w2 : Word) (rest : List Word) :
    parseFrame (w0 :: w1 :: w2 :: rest) =
      if crcMatches (w0 :: w1 :: w2 :: rest) then
        (parseBody (w0.extractLsb' 14 2) (w2.extractLsb' 0 8) rest).map fun body =>
          { source := w0.extractLsb' 8 6, check := w1, hop := w0.extractLsb' 0 6, serial := w2.extractLsb' 8 8,
            body := body }
      else none := by
  simp only [parseFrame]
  split
  · cases parseBody (w0.extractLsb' 14 2) (w2.extractLsb' 0 8) rest <;> rfl
  · rfl

/-! ### The list of a census (R77, R78) -/

theorem parseMembers_cons {a hi lo : Word} {rest : List Word} {ms : List Member}
    (h : parseMembers (a :: hi :: lo :: rest) = some ms) :
    ∃ ms', parseMembers rest = some ms' ∧ ms = { number := a.extractLsb' 0 6, identity := hi ++ lo } :: ms' ∧
      (hi ++ lo : BitVec 32) ≠ 0 := by
  rw [parseMembers] at h
  cases hr : parseMembers rest with
  | none => simp [hr] at h
  | some ms' =>
    simp only [hr] at h
    split at h
    · cases h
    · next hn => cases h; exact ⟨ms', rfl, rfl, hn⟩

/-- The words of a list with non-zero identities are read back. -/
theorem parseMembers_words (ms : List Member) (c : Word) (h : ∀ m ∈ ms, m.identity ≠ 0) :
    parseMembers (ms.flatMap Member.words ++ [c]) = some ms := by
  induction ms with
  | nil => rfl
  | cons m ms ih =>
    have hr := ih fun x hx => h x (by simp [hx])
    have hn := h m (by simp)
    have number : (BitVec.setWidth 16 m.number).extractLsb' 0 6 = m.number := by
      apply BitVec.eq_of_getLsbD_eq; intro i hi
      interval_cases i <;> simp
    simp only [List.flatMap_cons, Member.words, List.cons_append, List.nil_append, parseMembers, hr]
    simp only [identity_of_words, number, if_neg hn]

/-- A list of n entries has 3n words before the CRC. -/
theorem parseMembers_length : ∀ {ws : List Word} {ms : List Member}, parseMembers ws = some ms →
    ws.length = 3 * ms.length + 1
  | [], _, h => by simp [parseMembers] at h
  | [_], _, h => by simp [parseMembers] at h; subst h; rfl
  | [_, _], _, h => by simp [parseMembers] at h
  | _ :: _ :: _ :: rest, _, h => by
    obtain ⟨ms', h1, rfl, -⟩ := parseMembers_cons h
    have := parseMembers_length h1
    simp only [List.length_cons]; omega

/-- One entry more at the end of a list (R84). -/
theorem parseMembers_append : ∀ {ws : List Word} {ms : List Member} (m : Member) (c : Word), m.identity ≠ 0 →
    parseMembers ws = some ms → parseMembers (ws.dropLast ++ m.words ++ [c]) = some (ms ++ [m])
  | [], _, _, _, _, h => by simp [parseMembers] at h
  | [_], _, m, c, hm, h => by
    simp [parseMembers] at h; subst h
    simpa using parseMembers_words [m] c (by simpa using hm)
  | [_, _], _, _, _, _, h => by simp [parseMembers] at h
  | a :: hi :: lo :: rest, _, m, c, hm, h => by
    obtain ⟨ms', h1, rfl, hn⟩ := parseMembers_cons h
    have hr : rest ≠ [] := by rintro rfl; simp [parseMembers] at h1
    have ih := parseMembers_append m c hm h1
    have e : (a :: hi :: lo :: rest).dropLast = a :: hi :: lo :: rest.dropLast := by simp [List.dropLast]
    rw [e]
    simp only [List.cons_append]
    rw [parseMembers, ih]
    simp only [if_neg hn]

end Sys2Proof.Machine
end

