-- ==== Sys2Proof/Laws/Ports.lean ====
section
/-! SUPPORT. The port of a channel under each update, one lemma per field, and a byte read bit by bit. -/

namespace Sys2Proof.Machine

/-! ### setPort -/

@[simp] theorem State.setPort_lease (s : State) (ch : Channel) (p : Port) : (s.setPort ch p).lease = s.lease := rfl

@[simp] theorem State.setPort_frames (s : State) (ch : Channel) (p : Port) : (s.setPort ch p).frames = s.frames := rfl

@[simp] theorem State.setPort_station (s : State) (ch : Channel) (p : Port) : (s.setPort ch p).station = s.station := rfl

@[simp] theorem State.setPort_line (s : State) (ch : Channel) (p : Port) : (s.setPort ch p).line = s.line := rfl

@[simp] theorem State.setPort_channels (s : State) (ch : Channel) (p : Port) : (s.setPort ch p).channels = s.channels := rfl

@[simp] theorem State.setPort_config (s : State) (ch : Channel) (p : Port) : (s.setPort ch p).config = s.config := rfl

@[simp] theorem State.setPort_time (s : State) (ch : Channel) (p : Port) : (s.setPort ch p).time = s.time := rfl

@[simp] theorem State.setPort_identity (s : State) (ch : Channel) (p : Port) : (s.setPort ch p).identity = s.identity := rfl

@[simp] theorem State.setPort_rstnLow (s : State) (ch : Channel) (p : Port) : (s.setPort ch p).rstnLow = s.rstnLow := rfl

@[simp] theorem State.setPort_choices (s : State) (ch : Channel) (p : Port) : (s.setPort ch p).choices = s.choices := rfl

@[simp] theorem State.setPort_pending (s : State) (ch : Channel) (p : Port) : (s.setPort ch p).pending = s.pending := rfl

theorem State.setPort_port (s : State) (ch d : Channel) (p : Port) :
    (s.setPort ch p).port d = if ch = d then p else s.port d := by
  simp only [State.port, State.setPort, Vector.get_eq_getElem, Vector.getElem_set, Fin.ext_iff]

@[simp] theorem State.setPort_port_same (s : State) (ch : Channel) (p : Port) : (s.setPort ch p).port ch = p := by
  simp [State.setPort_port]

@[simp] theorem State.setPort_setPort (s : State) (ch : Channel) (p q : Port) :
    (s.setPort ch p).setPort ch q = s.setPort ch q := by
  simp [State.setPort]

@[simp] theorem State.setPort_channel (s : State) (ch d : Channel) (p : Port) : (s.setPort ch p).channel d = s.channel d := rfl

@[simp] theorem State.modifyChannel_port (s : State) (c d : Channel) (f : ChannelState → ChannelState) :
    (s.modifyChannel c f).port d = s.port d := rfl

/-! ### hands -/

@[simp] theorem State.hands_lease (s : State) (c : Option Instr) : (s.hands c).lease = s.lease := rfl

@[simp] theorem State.hands_frames (s : State) (c : Option Instr) : (s.hands c).frames = s.frames := rfl

@[simp] theorem State.hands_station (s : State) (c : Option Instr) : (s.hands c).station = s.station := rfl

@[simp] theorem State.hands_line (s : State) (c : Option Instr) : (s.hands c).line = s.line := rfl

@[simp] theorem State.hands_channels (s : State) (c : Option Instr) : (s.hands c).channels = s.channels := rfl

@[simp] theorem State.hands_config (s : State) (c : Option Instr) : (s.hands c).config = s.config := rfl

@[simp] theorem State.hands_time (s : State) (c : Option Instr) : (s.hands c).time = s.time := rfl

@[simp] theorem State.hands_identity (s : State) (c : Option Instr) : (s.hands c).identity = s.identity := rfl

@[simp] theorem State.hands_rstnLow (s : State) (c : Option Instr) : (s.hands c).rstnLow = s.rstnLow := rfl

@[simp] theorem State.hands_ports (s : State) (c : Option Instr) : (s.hands c).ports = s.ports := rfl

@[simp] theorem State.hands_choices (s : State) (c : Option Instr) : (s.hands c).choices = s.choices := rfl

@[simp] theorem State.hands_pending (s : State) (c : Option Instr) : (s.hands c).pending = s.pending ++ c.toList := rfl

@[simp] theorem State.hands_port (s : State) (c : Option Instr) (d : Channel) : (s.hands c).port d = s.port d := rfl

@[simp] theorem State.hands_channel (s : State) (c : Option Instr) (d : Channel) : (s.hands c).channel d = s.channel d := rfl

/-! ### Bytes on the data lines (R178) -/

/-- Eight bits, most significant first, make the byte they are the bits of. -/
theorem byteOfBits_bits (b : Byte) :
    byteOfBits [b.getMsbD 0, b.getMsbD 1, b.getMsbD 2, b.getMsbD 3, b.getMsbD 4, b.getMsbD 5, b.getMsbD 6, b.getMsbD 7] =
      b := by
  revert b; decide +kernel

/-- What a whole byte does to the port it came on, by the phase of the transaction. -/
theorem State.byteReceived_port (s : State) (ch : Channel) (phase : PortPhase) (b : Byte) :
    ∃ phase', (s.byteReceived ch phase b).port ch = .active phase' [] := by
  unfold State.byteReceived
  split
  · unfold State.opcodeDecoded
    split
    · exact ⟨_, State.setPort_port_same _ _ _⟩
    · split <;> exact ⟨_, State.setPort_port_same _ _ _⟩
  · exact ⟨_, State.setPort_port_same _ _ _⟩
  · exact ⟨_, State.setPort_port_same _ _ _⟩

/-- What a whole byte leaves alone: only its channel's copy, its own port and the queue can change. -/
theorem State.byteReceived_frame (s : State) (ch : Channel) (phase : PortPhase) (b : Byte) :
    (s.byteReceived ch phase b).lease = s.lease ∧ (s.byteReceived ch phase b).frames = s.frames ∧
      (s.byteReceived ch phase b).station = s.station ∧ (s.byteReceived ch phase b).line = s.line ∧
      (s.byteReceived ch phase b).config = s.config ∧ (s.byteReceived ch phase b).time = s.time ∧
      (∀ d, d ≠ ch → (s.byteReceived ch phase b).port d = s.port d ∧
        (s.byteReceived ch phase b).channel d = s.channel d) := by
  unfold State.byteReceived
  split
  · unfold State.opcodeDecoded
    split
    · exact ⟨rfl, rfl, rfl, rfl, rfl, rfl, fun d h => ⟨by simp [State.setPort_port, Ne.symm h], rfl⟩⟩
    · split
      · exact ⟨rfl, rfl, rfl, rfl, rfl, rfl, fun d h =>
          ⟨by simp [State.setPort_port, Ne.symm h], by simp [State.modifyChannel_channel, Ne.symm h]⟩⟩
      · exact ⟨rfl, rfl, rfl, rfl, rfl, rfl, fun d h => ⟨by simp [State.setPort_port, Ne.symm h], rfl⟩⟩
  · exact ⟨rfl, rfl, rfl, rfl, rfl, rfl, fun d h => ⟨by simp [State.setPort_port, Ne.symm h], rfl⟩⟩
  · exact ⟨rfl, rfl, rfl, rfl, rfl, rfl, fun d h => ⟨by simp [State.setPort_port, Ne.symm h], rfl⟩⟩

end Sys2Proof.Machine
end

