-- ==== Sys2Proof/Tests/Slice0.lean ====
section
/-! SUPPORT. Checks of our own work: the smoke test of the well-formedness checks, records and transactions written out from
R178 to R186, frames from R189 and R190, one step of each command, and for each statement with premises states that meet them. -/

namespace Sys2Proof.Machine.Tests

set_option Elab.async false

/-! ### Small states -/

/-- The state an outcome leads to. -/
def after (o : Host.Outcome State Fault Refusal) : State :=
  match o with
  | .next t => t
  | .fault _ | .refused _ => State.reset

/-- The state after one command. -/
def run (c : Instr) (s : State) : State := after (exec c s)

/-- A station in UP and INSERTED, nothing claimed; identity 0xABCD1234, station number 7. -/
def ring : State :=
  { ((State.reset.modifyStation fun r => { r with state := .up, interval := some 100, timestamp := 9 }).modifyLine
      fun l => { l with mode := .inserted, detector := .present 50, transmitter := .idle 0 }).modifyConfig
      fun c => { c with settings := { c.settings with stationNumber := 7 } } with
    identity := 0xABCD1234
    lease := { State.reset.lease with taken := .up } }

/-- The same station in another state; the Lease Table knows it. -/
def ringIn (x : StationState) : State :=
  (ring.modifyStation ({ · with state := x })).setTaken x

/-- The block after a device reset with channel 0's settings as they are. -/
def off : State := State.reset

/-- An EXCLUSIVE tenancy of channel 1 on tag 0x000123: priority 3, one attempt of two made, term 100. -/
def lease (x : EntryState) : Tenancy :=
  { owner := 1, attached := true, tag := 0x000123, mode := .exclusive, priority := 3, attemptLimit := 2, attempts := 1,
    term := 100, state := x, lastRefusal := none, contendedNotified := false, expiringNotified := false, deferred := none }

/-- The same in mode SHARED. -/
def shared (x : EntryState) : Tenancy := { lease x with mode := .shared }

/-- The same on channel 2. -/
def other (t : Tenancy) : Tenancy := { t with owner := 2 }

/-- One tenancy in entry 5, generation 15. -/
def one (t : Tenancy) : State := ring.setEntry 5 { generation := 15, tenancy := some t }

/-- Two tenancies: in entry 5, generation 15, and in entry 9, generation 0. -/
def two (t u : Tenancy) : State := (one t).setEntry 9 { generation := 0, tenancy := some u }

/-- The notice GRANTED of entry 5. -/
def notice : LeaseNotice :=
  { kind := .granted .exclusive, timestamp := 4, index := 5, generation := 15, tag := 0x000123, marks := {} }

/-- Channel 1's queue holding 24 records. -/
def full (s : State) : State := s.modifyChannel 1 ({ · with queue := List.replicate 24 (.void 3) })

theorem reset_tenancy (i : EntryIx) : State.reset.tenancy i = none := by
  simp [State.tenancy, State.entry, State.reset, LeaseTable.reset, Entry.reset, Vector.get]

theorem ring_tenancy (i : EntryIx) : ring.tenancy i = none := reset_tenancy i

theorem ringIn_tenancy (x : StationState) (i : EntryIx) : (ringIn x).tenancy i = none := reset_tenancy i

theorem one_tenancy {t u : Tenancy} {i : EntryIx} : (one t).tenancy i = some u ↔ i = 5 ∧ u = t := by
  unfold one; rw [State.setEntry_tenancy]
  split
  · next h => subst h; simp [eq_comm]
  · next h => simp [ring_tenancy, Ne.symm h]

theorem two_tenancy {t u v : Tenancy} {i : EntryIx} :
    (two t u).tenancy i = some v ↔ (i = 5 ∧ v = t) ∨ (i = 9 ∧ v = u) := by
  unfold two; rw [State.setEntry_tenancy]
  split
  · next h => subst h; simp [eq_comm]
  · next h => simp [one_tenancy, Ne.symm h]

theorem one_at (t : Tenancy) : (one t).tenancy 5 = some t := one_tenancy.2 ⟨rfl, rfl⟩

/-! ### Well-formed terms -/

theorem test_unknown_command_with_a_known_code_is_refused : (Instr.unknownCommand 0 0x10 7).wellFormed = false := by decide

theorem test_unknown_command_is_well_formed : (Instr.unknownCommand 0 0x17 7).wellFormed = true := by decide

theorem test_short_write_of_sixteen_is_refused : (Instr.shortWriteCommand 0 16).wellFormed = false := by decide

theorem test_short_write_of_fifteen_is_well_formed : (Instr.shortWriteCommand 0 15).wellFormed = true := by decide

theorem test_unknown_opcode_with_a_known_one_is_refused : (Instr.unknownOpcode 0 0x04).wellFormed = false := by decide

theorem test_unknown_opcode_is_well_formed : (Instr.unknownOpcode 0 0x05).wellFormed = true := by decide

/-! ### Records, transactions and frames written out from the manual -/

/-- R186, CLAIM: tag 0x0A0B0C, EXCLUSIVE, priority 7, term 0x0102, attempt limit 15. -/
theorem test_claim_record :
    decodeRecord 1 [0x10, 0x55, 0x0A, 0x0B, 0x0C, 0x02, 0x07, 0x01, 0x02, 0x0F, 0, 0, 0, 0, 0, 0] =
      some (.claim 1 0x55 0x0A0B0C 0x02 7 0x0102 15) := by decide

/-- R186, SET WINDOW: channel 3, window 2, match 0x112233, mask 0xFFFF00, enabled with the EXCLUSIVE right alone. -/
theorem test_set_window_record :
    decodeRecord 0 [0x22, 0x01, 0x03, 0x02, 0x11, 0x22, 0x33, 0xFF, 0xFF, 0x00, 0x05, 0, 0, 0, 0, 0] =
      some (.setWindow 0 0x01 3 2 0x112233 0xFFFF00 true false true) := by decide

/-- R186, CONFIGURE STATION: number 9, limit 64, 20 ms, 5 ms, 10 steps, margin 12. -/
theorem test_configure_station_record :
    decodeRecord 0 [0x20, 0x02, 9, 64, 20, 5, 10, 12, 0, 0, 0, 0, 0, 0, 0, 0] =
      some (.configureStation 0 0x02 9 64 20 5 10 12) := by decide

/-- R178: the four opcodes and an unknown one. -/
theorem test_transactions :
    decodeTransaction 2 [0x03] = some (.readEvent 2) ∧ decodeTransaction 2 [0x04] = some (.readAttention 2) ∧
      decodeTransaction 2 [0x02] = none ∧ decodeTransaction 2 [0x7F, 0x01] = some (.unknownOpcode 2 0x7F) ∧
      decodeTransaction 2 [0x01, 0x14] = some (.shortWriteCommand 2 1) := by decide

/-- R190: the CRC register after 0x0000 and after 0xFFFF, worked by hand from the generator. -/
theorem test_crc : crc16 [0xFFFF] = 0x0000 ∧ crc16 [] = 0xFFFF ∧ crc16 [0x0000] = 0x1D0F := by decide +kernel

/-- 10.4: the frame of station 5 as station 11 receives it. -/
def example104 : Frame :=
  { source := 5, check := 0x3C71, hop := 0, serial := 30,
    body := .claim 0x0A0100 .exclusive 4 false false none }

/-- 10.4, received at station 11, the bits set out by R189. -/
theorem test_example_claim_words :
    example104.header ++ example104.body.words = [0x4500, 0x3C71, 0x1E0A, 0x0100, 0xA000] := by decide

/-- 10.4, sent by station 11: the hop count, the HELD mark, the objector-present bit and the objector change. -/
theorem test_example_forwarded_words :
    (forwardWords example104.encode (claimChange true false (some 11))).dropLast =
      [0x4501, 0x3C71, 0x1E0A, 0x0100, 0xA44B] := by decide +kernel

/-- R189: the words of a RELEASE of station 5 on tag 0x123456 and of a CENSUS of one entry. -/
theorem test_release_and_census_words :
    ({ source := 5, check := 0xBEEF, hop := 0, serial := 0x21, body := .release 0x123456 } : Frame).header ++
        (FrameBody.release 0x123456).words = [0x8500, 0xBEEF, 0x2112, 0x3456] ∧
      ({ source := 5, check := 0xBEEF, hop := 0, serial := 0x21, body := .census [⟨5, 0xCAFEBEEF⟩] } : Frame).header ++
        (FrameBody.census [⟨5, 0xCAFEBEEF⟩]).words = [0xC500, 0xBEEF, 0x2100, 0x0001, 0x0005, 0xCAFE, 0xBEEF] := by decide

/-- R188: a GRANTED notice, EXCLUSIVE, of entry 5, generation 15, tag 0x000123, at 4. -/
theorem test_notice_bytes :
    (EventRecord.lease notice).bytes = [0x01, 0x00, 0, 0, 0, 4, 5, 15, 0x00, 0x01, 0x23, 0x00, 0x02, 0, 0, 0] := by decide

/-! ### One step of each command -/

/-- The result slot of a channel after a command. -/
def result (ch : Channel) (c : Instr) (s : State) : Option ResultRecord := ((run c s).channel ch).slot

/-- 1.10, step 1. -/
theorem test_claim_is_accepted :
    result 0 (.claim 0 0x21 0x00A41C 0x02 0 100 3) ring = some ⟨0x10, 0x21, .accepted, .handle 0 1⟩ := by decide +kernel

/-- 1.10, step 8: a SHARED claim joins SHARED holders. -/
theorem test_claim_joins :
    result 2 (.claim 2 0x22 0x000123 0x01 7 65535 1) (one (shared (.held 40 true))) =
      some ⟨0x10, 0x22, .grantedNow, .granted 0 1 65535⟩ := by decide +kernel

/-- 1.10, step 7: the tag is handed on, and the new holder has its whole term. -/
theorem test_release_hands_on :
    ((run (.release 1 3 5 15) ((two (lease (.held 50 false)) (other (shared .queuedLocal))).setWaiting [9])).tenancy 9).map
      (·.state) = some (.held 100 false) := by decide +kernel

/-- 8.13, step 11: a detached entry is GONE. -/
theorem test_release_of_a_detached_entry :
    result 1 (.release 1 0x28 5 15) (one { lease (.claiming (.inFlight 4 20) false) with attached := false }) =
      some ⟨0x11, 0x28, .gone, .nothing⟩ := by decide +kernel

/-- 3.8, step 3: RENEW with term 0 restarts the term and keeps the remote demand. -/
theorem test_renew :
    ((run (.renew 1 4 5 15 0) (one (lease (.held 10 true)))).tenancy 5).map (·.state) = some (.held 100 true) := by
  decide +kernel

/-- 8.13, step 14, and R187: QUERY of a HELD entry, byte by byte. -/
theorem test_query :
    result 1 (.query 1 0x29 5 14) (one (lease (.held 10 true))) = some ⟨0x13, 0x29, .badHandle, .nothing⟩ ∧
      (run (.query 1 5 5 15) (one (lease (.held 258 true)))).resultBytes 1 =
        [0x13, 5, 0x01, 0x04, 0x02, 0x00, 0x01, 0x23, 1, 1, 2, 0x07, 0, 0] ++ List.replicate 10 0 := by decide +kernel

/-- R158, R187. -/
theorem test_status :
    (run (.status 1 6) (one (lease .queuedLocal))).resultBytes 1 =
      [0x14, 6, 0x01, 0x02, 7, 0xAB, 0xCD, 0x12, 0x34, 0, 0, 0, 0, 0, 0, 63, 1, 16, 0, 0, 0, 0, 9, 0] := by
  decide +kernel

/-- R159: an index at the member count is absent, one above 63 is out of range. -/
theorem test_members :
    result 3 (.members 3 7 0) ring = some ⟨0x15, 7, .ok, .member 0 0 none⟩ ∧
      result 3 (.members 3 7 64) ring = some ⟨0x15, 7, .badArgument, .nothing⟩ := by decide +kernel

/-- R71, R160: the claim in flight stays and counts, the waiter goes. -/
theorem test_reset_channel :
    result 1 (.resetChannel 1 8)
        ((two (lease (.claiming (.inFlight 4 20) false)) (lease .queuedLocal)).setWaiting [9]) =
      some ⟨0x16, 8, .ok, .reset 1 1 1 1⟩ := by decide +kernel

/-- 8.13, step 9: the same values in both slots. -/
theorem test_reset_channel_n :
    result 1 (.resetChannelN 0 0x90 1) (one (lease (.held 5 false))) = some ⟨0x26, 0x90, .ok, .reset 1 0 0 1⟩ ∧
      result 0 (.resetChannelN 0 0x90 4) ring = some ⟨0x26, 0x90, .badArgument, .nothing⟩ := by decide +kernel

/-- R100, R107. -/
theorem test_start : (run (.start 0 9) off).station.state = .joining ∧ (run (.start 0 9) off).line.mode = .settling 5000 := by
  decide +kernel

/-- R121, R122: with no frame on ring-out the bypass closes at once. -/
theorem test_leave :
    (run (.leave 0 10) (one (lease .queuedLocal))).station.state = .offline ∧
      result 0 (.leave 0 10) (one (lease .queuedLocal)) = some ⟨0x25, 10, .ok, .left 1⟩ := by decide +kernel

/-- R104: a damaged frame that was complete before the LEAVE counts. -/
theorem test_leave_after_an_arrival :
    (run (.leave 0 10) (ring.modifyFrames ({ · with arrivals := [⟨[1, 2], false, false, true⟩] }))).station.faultScore = 8 := by
  decide +kernel

/-- 9.9, step 1. -/
theorem test_configure_station :
    (run (.configureStation 0 1 17 16 10 4 20 25) off).config.settings = ⟨17, 16, 10, 4, 200, 25⟩ := by decide +kernel

/-- 9.9, steps 5 and 11. -/
theorem test_set_channel_limits :
    (run (.setChannelLimits 0 1 0 8 7 65535) off).limits 0 = ⟨8, 7, 65535⟩ ∧
      result 0 (.setChannelLimits 0 1 4 0 0 1) off = some ⟨0x21, 1, .badArgument, .nothing⟩ := by decide +kernel

/-- 9.9, step 8. -/
theorem test_set_window :
    ((run (.setWindow 0 1 1 1 0x200000 0xF00000 true true false) off).windows 1).get 1 =
      ⟨true, 0x200000, 0xF00000, true, false⟩ := by decide +kernel

/-- 9.9, step 10, and the class that names VOID. -/
theorem test_set_route :
    (run (.setRoute 0 1 0x03 1) off).config.routing = ⟨0, 0, 1⟩ ∧
      result 0 (.setRoute 0 1 0x04 1) off = some ⟨0x23, 1, .badArgument, .nothing⟩ := by decide +kernel

/-- R147. -/
theorem test_unknown_command :
    result 2 (.unknownCommand 2 0x7E 0x33) off = some ⟨0x7E, 0x33, .unknownCommand, .nothing⟩ := by decide +kernel

/-- R179. -/
theorem test_short_write : ((run (.shortWriteCommand 2 15) off).channel 2).portError = true := by decide +kernel

/-- 7.8, step 12: with nothing deferred nothing moves in. -/
theorem test_read_event :
    ((run (.readEvent 1) (full ring)).channel 1).queue.length = 23 ∧
      ((run (.readEvent 0) ring).channel 0).readCopy = .event (.empty 9) := by decide +kernel

/-- R180. -/
theorem test_read_attention :
    ((run (.readAttention 1) (run (.unknownOpcode 1 0) (full ring))).channel 1).readCopy = .attention 24 false true ∧
      ((run (.readAttention 1) (run (.unknownOpcode 1 0) ring)).channel 1).portError = false := by decide +kernel

/-- R181: the flag, and 0x00 until select rises. -/
theorem test_unknown_opcode :
    ((run (.unknownOpcode 3 0x05) off).channel 3).portError = true ∧
      (run (.unknownOpcode 3 0x05) (run (.readEvent 3) ring)).outByte 3 (.shifting 0) = 0 := by decide +kernel

/-- R3, R103, R119: everything but the identity returns to its reset value. -/
theorem test_device_reset :
    (run .deviceReset (one (lease .queuedLocal))).lease = LeaseTable.reset ∧
      (run .deviceReset ring).identity = 0xABCD1234 ∧ (run .deviceReset ring).rstnLow = true := by decide +kernel

/-- Channel 1's port in a READ RESULT that has shifted out one byte. -/
def reading : State := ring.setPort 1 (.active (.shifting 1) [])

/-- R178, R182: a transaction in progress is abandoned and its select ignored until it rises. -/
theorem test_device_reset_at_a_port :
    (run .deviceReset reading).dataOut 1 = none ∧ (run .resetRelease (run .deviceReset reading)).dataOut 1 = none ∧
      (run .resetRelease (run .deviceReset reading)).port 1 = .ignored ∧
      (((run .resetRelease (run .deviceReset reading)).selectRises 1).selectFalls 1).dataOut 1 = some false := by
  decide +kernel

/-- R103. -/
theorem test_reset_release : (run .resetRelease { off with rstnLow := true }).ringOutWord = some .idle := by decide +kernel

/-- R93. -/
theorem test_upstream_present :
    (run .upstreamPresent (ring.modifyLine ({ · with detector := .silent }))).line.detector = .present 50 := by
  decide +kernel

/-- R93, R118. -/
theorem test_upstream_silent :
    (run .upstreamSilent ring).station.state = .down ∧ (run .upstreamSilent ring).line.detector = .silent := by
  decide +kernel

/-- 10.4 and 4.5, second table, step 2: a holder marks the frame, and its entry has the remote demand. -/
theorem test_frame_arrival :
    ((run .frameArrival
        ((one { lease (.held 5 false) with tag := 0x0A0100 }).modifyFrames ({ · with
          arrivals := [⟨example104.encode, false, false, false⟩] }))).line.transit.map fun ws => ws[4]?) =
        [some 0xA447] ∧
      ((run .frameArrival
        ((one { lease (.held 5 false) with tag := 0x0A0100 }).modifyFrames ({ · with
          arrivals := [⟨example104.encode, false, false, false⟩] }))).tenancy 5).map (·.state) = some (.held 5 true) := by
  decide +kernel

/-- R27, R90: the first frame of an attempt, at standing 3 + 2 - 1. -/
theorem test_frame_boundary :
    (match (run .frameBoundary ((one (lease (.claiming .queued true))).setSendList [.claim 5])).line.transmitter with
      | .sending ws sent => (ws.take 5, sent)
      | .idle _ | .ended => ([], 0)) = ([0x4700, 0x1234, 0x0000, 0x0123, 0xA000], 1) := by decide +kernel

/-- R102, R122. -/
theorem test_draining_end_sent :
    (run .drainingEndSent ((ring.modifyLine ({ · with mode := .draining })).modifyStation
      ({ · with leaving := true }))).byp = false := by decide +kernel

/-- 6.13, step 2: the join hold-off is 40 ms. -/
theorem test_relay_settle_expiry :
    (run .relaySettleExpiry ((ringIn .joining).modifyLine ({ · with mode := .settling 0 }))).station.holdOff = some 40 := by
  decide +kernel

/-- 6.13, step 4. -/
theorem test_join_hold_off_expiry :
    (run .joinHoldOffExpiry ((ringIn .joining).modifyStation ({ · with holdOff := some 0 }))).station.census = .queued := by
  decide +kernel

/-- R110: a DOWN station with a score above 32 adds no census and restarts its timer. -/
theorem test_census_interval_expiry :
    (run .censusIntervalExpiry ((ringIn .down).modifyStation ({ · with faultScore := 33, interval := some 0 }))).station.census =
        .none ∧
      (run .censusIntervalExpiry ((ringIn .down).modifyStation ({ · with faultScore := 33, interval := some 0 }))).station.interval
        = some 100 := by decide +kernel

/-- R113: the second loss in a row takes the station DOWN. -/
theorem test_census_loss :
    (run .censusLoss (ring.modifyStation ({ · with census := .inFlight 3 0 0, censusLosses := 1 }))).station.state = .down := by
  decide +kernel

/-- 7.8, step 3: EXPIRING at the margin. -/
theorem test_term_tick :
    (((run (.termTick 5) (one (lease (.held 11 true)))).channel 1).queue.map fun r => r.bytes.take 1) = [[0x03]] ∧
      (((run (.termTick 5) (one (lease (.held 12 true)))).channel 1).queue) = [] := by decide +kernel

/-- 3.8, step 4: the remote demand sends the lease to the ring. -/
theorem test_term_expiry :
    ((run (.termExpiry 5) (one (lease (.held 0 true)))).tenancy 5).map (fun t => (t.attached, t.state)) =
      some (false, .releasing .queued) := by decide +kernel

/-- R40. -/
theorem test_backoff_expiry :
    (run (.backoffExpiry 5) (one (lease (.backoff 0)))).frames.sendList = [.claim 5] := by decide +kernel

/-- R42: the first of two attempts times out. -/
theorem test_claim_circuit_timeout :
    ((run (.claimCircuitTimeout 5) (one (lease (.claiming (.inFlight 4 0) true)))).tenancy 5).map
      (fun t => (t.lastRefusal, t.state)) = some (some ⟨.timeout, none⟩, .backoff 5) := by decide +kernel

/-- R65. -/
theorem test_release_circuit_timeout :
    (run (.releaseCircuitTimeout 5) (one { lease (.releasing (.inFlight 4 0)) with attached := false })).tenancy 5 = none := by
  decide +kernel

/-- 1.10, last paragraph: the claim under way and its waiter are denied with RING_DOWN. -/
theorem test_lease_table_takes_state_change :
    ((run .leaseTableTakesStateChange
      (((two (lease (.claiming (.inFlight 4 9) false)) (other (lease .queuedLocal))).setWaiting [9]).setChanges
        [.down])).channel 2).queue.map (fun r => r.bytes.drop 12) = [[0x05, 0x00, 0x01, 0x00]] := by decide +kernel

/-- R94, R95. -/
theorem test_line_word_received :
    (run (.lineWordReceived .fin) (ring.modifyLine ({ · with receiver := .inFrame [1, 2] true false }))).frames.arrivals =
      [⟨[1, 2], true, false, false⟩] := by decide +kernel

/-- R91, R97, R98: the END has its word time on ring-out before the gap. -/
theorem test_frame_end_sent :
    (run .frameEndSent (ring.modifyLine ({ · with transmitter := .sending [1] 3 }))).ringOutWord = some .fin := by
  decide +kernel

/-- R102: a LEAVE came between the last data word and the event of its END. -/
theorem test_frame_end_sent_after_leave :
    (run .frameEndSent (run (.leave 0 10) (ring.modifyLine ({ · with transmitter := .sending [1] 3 })))).byp = false := by
  decide +kernel

/-- R124: the timestamp wraps. -/
theorem test_station_timestamp_tick :
    (run .stationTimestampTick (ring.modifyStation ({ · with timestamp := 0xFFFFFFFF }))).station.timestamp = 0 := by
  decide +kernel

/-! ### A port at its pins -/

/-- A byte clocked into channel 1's port, most significant bit first. -/
def clockByte (s : State) (b : Byte) : State := (List.range 8).foldl (fun x k => x.clockBit 1 (b.getMsbD k)) s

/-- R180: a channel reset during the shift-out does not reach the bytes of a READ RESULT. -/
theorem test_read_result_copies_the_slot :
    (run (.resetChannel 1 8) (clockByte ((run (.unknownCommand 1 0x7E 0x33) off).selectFalls 1) 0x02)).outByte 1 (.shifting 0)
      = 0x7E := by decide +kernel

/-- R178, R182: data-out is 0x00 during the opcode, then the copy's first bit; at high impedance with select high. -/
theorem test_data_out :
    (off.selectFalls 1).dataOut 1 = some false ∧
      (clockByte ((run (.unknownCommand 1 0xFE 0x33) off).selectFalls 1) 0x02).dataOut 1 = some true ∧
      (clockByte ((run (.unknownCommand 1 0xFE 0x33) off).selectFalls 1) 0x01).dataOut 1 = some false ∧
      ((off.selectFalls 1).selectRises 1).dataOut 1 = none := by decide +kernel

/-- R179: sixteen bytes after the opcode are a command at the rise of select. -/
theorem test_write_command_at_the_pins :
    (([0x01, 0x14, 0x33] ++ List.replicate 14 0).foldl clockByte (off.selectFalls 1) |>.selectRises 1).pending =
      [.status 1 0x33] ∧
      (([0x01, 0x14, 0x33].foldl clockByte (off.selectFalls 1)).selectRises 1).pending = [.shortWriteCommand 1 2] := by
  decide +kernel

/-! ### States that meet the premises of the statements -/

theorem one_entry (t : Tenancy) : ((one t).entry 5).generation = 15 := by simp [one]

theorem one_names {t : Tenancy} (h : t.owner = 1) (k : t.attached = true) : (one t).Names 1 5 15 5 t :=
  ⟨by decide, one_at t, h, by rw [one_entry]; decide, k⟩

theorem one_blocked {t : Tenancy} : (one t).Blocked t.tag ↔ t.blocks = true := by
  simp only [State.Blocked, one_tenancy]; constructor
  · rintro ⟨_, _, ⟨-, rfl⟩, -, h⟩; exact h
  · exact fun h => ⟨5, t, ⟨rfl, rfl⟩, rfl, h⟩

theorem one_heldOn {t : Tenancy} : (one t).HeldOn t.tag ↔ t.isHeld = true := by
  simp only [State.HeldOn, one_tenancy]; constructor
  · rintro ⟨_, _, ⟨-, rfl⟩, -, h⟩; exact h
  · exact fun h => ⟨5, t, ⟨rfl, rfl⟩, rfl, h⟩

theorem one_heldExclusiveOn {t : Tenancy} :
    (one t).HeldExclusiveOn t.tag ↔ t.isHeld = true ∧ t.mode = .exclusive := by
  simp only [State.HeldExclusiveOn, one_tenancy]; constructor
  · rintro ⟨_, _, ⟨-, rfl⟩, -, h⟩; exact h
  · exact fun h => ⟨5, t, ⟨rfl, rfl⟩, rfl, h⟩

theorem one_lastHolder {t : Tenancy} (tag : Tag) : (one t).LastHolder 5 tag := by
  simp only [State.LastHolder, one_tenancy]; rintro j u h ⟨rfl, -⟩; exact absurd rfl h

/-- Entry 5 of `one` is the only one: what a statement asks of the other entries holds. -/
theorem one_alone {t u : Tenancy} {j : EntryIx} (h : j ≠ 5) : (one t).tenancy j ≠ some u := by
  rw [Ne, one_tenancy]; exact fun k => h k.1

theorem one_free (t : Tenancy) : (one t).LowestFree 0 :=
  ⟨by rw [← Option.not_isSome_iff_eq_none, Option.isSome_iff_exists]; rintro ⟨u, h⟩
      exact absurd (one_tenancy.1 h).1 (by decide),
   fun j h => absurd h (by simp)⟩

/-- CLAIM's checks on `one` for channel 2 at the ends of the ranges. -/
theorem one_passes {t : Tenancy} (h : t.owner = 1) {m : Mode} {mode : Byte} (hm : ModeByte mode m) :
    (one t).ClaimPasses 2 0x000123 mode 7 65535 15 m := by
  have hl : (one t).limits 2 = ⟨16, 7, 65535⟩ := rfl
  have hw : ((one t).windows 2).get 0 = Window.everyTag := rfl
  refine ⟨rfl, rfl, ⟨?_, by decide, by decide, by rw [hl]; decide, by decide, by decide⟩, hm, by rw [hl]; decide, ?_, ?_, ?_⟩
  · rcases hm with ⟨h, -⟩ | ⟨h, -⟩ <;> simp [h]
  · exact ⟨0, by rw [hw]; cases m <;> simp [Window.Allows, Window.everyTag]⟩
  · rintro ⟨i, u, h1, h2, -⟩
    obtain ⟨-, rfl⟩ := one_tenancy.1 h1
    rw [h] at h2; exact absurd h2 (by decide)
  · have : (one t).nonFree 2 = 0 := by
      simp only [State.nonFree, List.countP_eq_zero, State.entryMeets]
      intro i _
      split
      · next u hu => obtain ⟨-, rfl⟩ := one_tenancy.1 hu; simp [h]
      · simp
    rw [this, hl]; decide

theorem witness_StepRunsTheFrontCommand :
    ({ ring with pending := [.readEvent 0, .deviceReset] } : State).pending = .readEvent 0 :: [.deviceReset] := rfl

/-- An event that is due; the last period before a millisecond, the millisecond with a HELD entry, which is a word time too, and
RSTn low; at a word time the last data word and one before it, the END and the gap; the settle and the silence timer. -/
theorem witness_IdleBlockRunsItsClock :
    (ring.modifyFrames ({ · with arrivals := [⟨[], true, false, false⟩] })).pending = [] ∧
      (ring.modifyFrames ({ · with arrivals := [⟨[], true, false, false⟩] })).due = some .frameArrival ∧
      ({ ring with time := ⟨24998, 7⟩ } : State).due = none ∧ (24998 + 1) % 10 ≠ 0 ∧ (24998 + 1) % 25000 ≠ 0 ∧
      ({ one (lease (.held 5 false)) with time := ⟨24999, 7⟩ } : State).due = none ∧ (24999 + 1) % 10 = 0 ∧
      (24999 + 1) % 25000 = 0 ∧ ({ off with rstnLow := true } : State).due = none ∧
      (ring.modifyLine ({ · with transmitter := .sending [1] 1 })).due = none ∧ 1 ≤ ([1] : List Word).length ∧
      (ring.modifyLine ({ · with transmitter := .sending [1] 2 })).due = none ∧ ([1] : List Word).length < 2 ∧
      (ring.modifyLine ({ · with transmitter := .ended })).due = none ∧
      (ring.modifyLine ({ · with transmitter := .idle (1 + 1) })).due = none ∧ ring.due = none ∧
      ring.line.transmitter = .idle 0 ∧ ring.line.detector = .present 50 ∧
      ((ringIn .joining).modifyLine ({ · with mode := .settling 2 })).due = none ∧
      (∀ timer, ring.line.mode ≠ .settling timer) ∧
      (ring.modifyLine ({ · with transmitter := .sending [1] (0 + 2) })).line.transmitter = .sending [1] (0 + 2) := by
  have h : ring.line.mode = .inserted := rfl
  refine ⟨?_, ?_, ?_, ?_, ?_, ?_, ?_, ?_, ?_, ?_, ?_, ?_, ?_, ?_, ?_, ?_, ?_, ?_, ?_, fun _ => by simp [h], ?_⟩ <;> decide +kernel

/-- What is due: an untaken change; the lower of two expiries; with no entry's, each timer of the station and the line in turn. -/
theorem witness_IdleBlockRunsItsClock_of_what_is_due :
    (ring.setChanges [.down]).lease.changes ≠ [] ∧ ring.frames.arrivals = [] ∧ ring.lease.changes = [] ∧
      (two (lease (.held 0 false)) (other (lease (.backoff 0)))).EntryExpires 5 (.termExpiry 5) ∧
      (∀ j d, j < 5 → ¬ (two (lease (.held 0 false)) (other (lease (.backoff 0)))).EntryExpires j d) ∧
      (∀ i c, ¬ ring.EntryExpires i c) ∧ (ring.modifyStation ({ · with holdOff := some 0 })).station.holdOff = some 0 ∧
      ring.station.holdOff ≠ some 0 ∧ (ring.modifyStation ({ · with interval := some 0 })).station.interval = some 0 ∧
      ring.station.interval ≠ some 0 ∧
      (ring.modifyStation ({ · with census := .inFlight 3 9 0 })).station.census = .inFlight 3 9 0 ∧
      (∀ serial origin, ring.station.census ≠ .inFlight serial origin 0) ∧
      (ring.modifyLine ({ · with mode := .settling 0 })).line.mode = .settling 0 ∧ ring.line.mode ≠ .settling 0 ∧
      (ring.modifyLine ({ · with detector := .present 0 })).line.detector = .present 0 ∧ ring.line.detector ≠ .present 0 := by
  refine ⟨by decide, rfl, rfl, ⟨_, two_tenancy.2 (.inl ⟨rfl, rfl⟩), .inl ⟨false, rfl, rfl⟩⟩, ?_, ?_, rfl, by decide, rfl, by decide,
    rfl, fun _ _ => ?_, rfl, by decide, rfl, by decide⟩
  · rintro j d h ⟨u, hu, -⟩
    rcases two_tenancy.1 hu with ⟨rfl, -⟩ | ⟨rfl, -⟩ <;> exact absurd h (by decide)
  · rintro i c ⟨u, hu, -⟩; rw [ring_tenancy] at hu; cases hu
  · have h : ring.station.census = .none := rfl
    simp [h]

/-- LEAVE meets every premise for every channel, and a read of channel 0 meets them for channel 1. -/
theorem witness_EveryCommandCompletes :
    Instr.leave 0 0 ≠ .frameBoundary ∧ Instr.leave 0 0 ≠ .deviceReset ∧ (∀ ch, Instr.leave 0 0 ≠ .readEvent ch) ∧
      (∀ ch, Instr.leave 0 0 ≠ .readAttention ch) ∧ (∀ ch opcode, Instr.leave 0 0 ≠ .unknownOpcode ch opcode) ∧
      Instr.readEvent 0 ≠ .readEvent 1 :=
  ⟨by decide, by decide, fun _ => by simp, fun _ => by simp, fun _ _ => by simp, by decide⟩

theorem witness_DeviceResetActsInEveryState :
    exec .deviceReset ring = .next (run .deviceReset ring) ∧ (Instr.claim 3 0 0 1 0 1 1).channel = some 3 ∧
      ({ off with rstnLow := true } : State).rstnLow = true ∧ reading.port 1 ≠ .idle ∧ reading.port 0 = .idle ∧
      (run .deviceReset ring).HeldInReset ∧ (run .deviceReset ring).pending.head? ≠ some .resetRelease ∧
      (run .deviceReset { ring with pending := [.start 0 1] }).HeldInReset ∧
      (run .deviceReset { ring with pending := [.start 0 1] }).pending.head? ≠ some .resetRelease := by
  refine ⟨rfl, rfl, rfl, by decide +kernel, by decide +kernel, rfl, by decide, rfl, by decide⟩

/-- Arguments at the top of their fields, and an unknown command. -/
theorem witness_CommandRecordsRoundTrip :
    (Instr.claim 3 255 0xFFFFFF 255 255 0xFFFF 255).wellFormed = true ∧
      (Instr.claim 3 255 0xFFFFFF 255 255 0xFFFF 255).channel = some 3 ∧
      encodeRecord (.claim 3 255 0xFFFFFF 255 255 0xFFFF 255) =
        some ([0x10, 255, 255, 255, 255, 255, 255, 255, 255, 255] ++ List.replicate 6 0) ∧
      (Instr.unknownCommand 0 0xFF 1).wellFormed = true ∧
      encodeRecord (.unknownCommand 0 0xFF 1) = some (0xFF :: 1 :: List.replicate 14 0) := by decide

theorem witness_WriteCommandTakesSixteenBytes :
    16 ≤ (List.replicate 16 (0 : Byte)).length ∧ (List.replicate 15 (0 : Byte)).length < 16 ∧ ring.rstnLow = false := by
  decide +kernel

/-- A CLAIM with an objector and a CENSUS of 64 entries. -/
theorem witness_OriginatedFramesAreIntact :
    (∀ tag m standing held yield objector,
        (FrameBody.claim 5 .shared 15 true false (some 63)) = .claim tag m standing held yield objector →
        objector.isSome = (held || yield)) ∧
      (∀ members, FrameBody.census (List.replicate 64 ⟨63, 0xFFFFFFFF⟩) = .census members →
        1 ≤ members.length ∧ members.length ≤ 64 ∧ ∀ m ∈ members, m.identity ≠ 0) := by
  constructor
  · intro _ _ _ _ _ _ h; cases h; rfl
  · intro _ h; cases h; decide

/-- Frames that arrive intact with hop count 62: an unmarked CLAIM, a RELEASE, a CENSUS of one entry. -/
theorem witness_ForwardedFramesAreIntact :
    parseFrame { example104 with hop := 62 }.encode = some { example104 with hop := 62 } ∧ (62 : BitVec 6).toNat < 63 ∧
      ((some 11 : Option StationNo).isSome = (true || false)) ∧
      parseFrame { example104 with hop := 62, body := .release 0xFFFFFF }.encode =
        some { example104 with hop := 62, body := .release 0xFFFFFF } ∧
      parseFrame { example104 with hop := 62, body := .census [⟨5, 1⟩] }.encode =
        some { example104 with hop := 62, body := .census [⟨5, 1⟩] } ∧ ([⟨5, 1⟩] : List Member).length < 64 := by
  decide +kernel

/-- One frame for each fault of R78, lengths beside the right ones. -/
theorem witness_DamageIsFound :
    ([0x4000, 0, 0, 0, 0, 0] : List Word).getLast? ≠ some (crc16 ([0x4000, 0, 0, 0, 0, 0] : List Word).dropLast) ∧
      (withCrc [0x8000, 0, 0]).length < 5 ∧ (0x0000 : Word).extractLsb' 14 2 = 0b00 ∧
      (withCrc [0x4000, 0, 0, 0, 0, 0]).head? = some 0x4000 ∧ (0x4000 : Word).extractLsb' 14 2 = 0b01 ∧
      (withCrc [0x4000, 0, 0, 0, 0, 0]).length ≠ 6 ∧
      (0x8000 : Word).extractLsb' 14 2 = 0b10 ∧ (withCrc [0x8000, 0, 0, 0, 0]).length ≠ 5 ∧
      (0xC000 : Word).extractLsb' 14 2 = 0b11 ∧ (withCrc [0xC000, 0, 0, 1, 0, 0]).length < 8 ∧
      197 < (withCrc (0xC000 :: List.replicate 199 0)).length ∧ (withCrc [0xC000, 0, 0, 1, 0, 0, 1, 0]).length % 3 ≠ 2 ∧
      (withCrc [0xC000, 0, 0, 2, 0, 0, 1])[3]? = some 2 ∧
      3 * ((2 : Word).extractLsb' 0 7).toNat + 5 ≠ (withCrc [0xC000, 0, 0, 2, 0, 0, 1]).length ∧
      3 * 0 + 7 < (withCrc [0xC000, 0, 0, 1, 0, 0, 0]).length ∧ (withCrc [0xC000, 0, 0, 1, 0, 0, 0])[3 * 0 + 5]? = some 0 ∧
      (withCrc [0xC000, 0, 0, 1, 0, 0, 0])[3 * 0 + 6]? = some 0 ∧
      (withCrc [0x4000, 0, 0, 0, 0x0040])[4]? = some 0x0040 ∧
      (0x0040 : Word).getLsbD 6 ≠ ((0x0040 : Word).getLsbD 10 || (0x0040 : Word).getLsbD 9) := by decide +kernel

/-- A HELD entry with remote demand, a waiter behind it, a full queue, a census in flight: every invariant holds of it. -/
def lively : State :=
  { full (((two (lease (.held 50 true)) { lease .queuedLocal with owner := 2, attempts := 0 }).setWaiting [9]).modifyStation
      ({ · with census := .inFlight 3 0 20 })) with
    pending := [.termTick 5] }

theorem lively_tenancy {i : EntryIx} {v : Tenancy} : lively.tenancy i = some v ↔
    (i = 5 ∧ v = lease (.held 50 true)) ∨ (i = 9 ∧ v = { lease .queuedLocal with owner := 2, attempts := 0 }) := two_tenancy

theorem witness_StepKeepsQueuesBounded : lively.QueuesBounded ∧ step lively = .next (after (step lively)) := by
  constructor
  · intro c; fin_cases c <;> (unfold ChannelState.Bounded; decide +kernel)
  · rfl

theorem witness_StepKeepsTagsExclusive : lively.Exclusive ∧ step lively = .next (after (step lively)) := by
  constructor
  · intro i j t u hij ht hu _ h1 h2
    rcases lively_tenancy.1 ht with ⟨rfl, rfl⟩ | ⟨rfl, rfl⟩
    · rcases lively_tenancy.1 hu with ⟨rfl, rfl⟩ | ⟨rfl, rfl⟩
      · exact absurd rfl hij
      · exact absurd h2 (by decide)
    · exact absurd h1 (by decide)
  · rfl

theorem lively_stationLine : lively.StationLine := by
  refine ⟨⟨fun h => absurd h (by decide), fun h => absurd h (by decide)⟩,
    ⟨fun h => absurd h (by decide), fun h => absurd h (by decide)⟩, ?_⟩
  rintro (h | h) <;> exact absurd h (by decide)

theorem lively_quotaHeld : lively.QuotaHeld := by intro c; fin_cases c <;> decide +kernel

theorem witness_StepKeepsStationAndLineTogether : lively.StationLine ∧ step lively = .next (after (step lively)) :=
  ⟨lively_stationLine, rfl⟩

theorem witness_StepKeepsQuotas :
    lively.StationLine ∧ lively.QuotasFit ∧ lively.QuotaHeld ∧ step lively = .next (after (step lively)) :=
  ⟨lively_stationLine, fun _ => by decide +kernel, lively_quotaHeld, rfl⟩

theorem witness_StepKeepsWaitListsExact : lively.WaitListsExact ∧ step lively = .next (after (step lively)) := by
  refine ⟨⟨by decide, fun i => ?_⟩, rfl⟩
  constructor
  · intro h
    have : i = 9 := by simpa [lively, full] using h
    exact ⟨_, lively_tenancy.2 (.inr ⟨this, rfl⟩), rfl⟩
  · rintro ⟨t, ht, hs⟩
    rcases lively_tenancy.1 ht with ⟨rfl, rfl⟩ | ⟨rfl, rfl⟩
    · exact absurd hs (by decide)
    · decide

theorem witness_StepKeepsSendListExact :
    lively.StationLine ∧ lively.SendListExact ∧ step lively = .next (after (step lively)) := by
  have none (t : Tenancy) (i : EntryIx) (ht : lively.tenancy i = some t) :
      (∀ lost, t.state ≠ .claiming .queued lost) ∧ t.state ≠ .releasing .queued := by
    rcases lively_tenancy.1 ht with ⟨-, rfl⟩ | ⟨-, rfl⟩ <;> simp [lease]
  have empty : lively.frames.sendList = [] := rfl
  refine ⟨lively_stationLine, ⟨by rw [empty]; exact .nil, fun i => ?_, fun i => ?_, ?_⟩, rfl⟩
  · simp only [empty, List.not_mem_nil, false_iff]; rintro ⟨t, lost, ht, hs⟩; exact (none t i ht).1 lost hs
  · simp only [empty, List.not_mem_nil, false_iff]; rintro ⟨t, ht, hs⟩; exact (none t i ht).2 hs
  · decide

theorem witness_StepKeepsDeferralListsExact : lively.DeferralExact ∧ step lively = .next (after (step lively)) := by
  have none (t : Tenancy) (i : EntryIx) (ht : lively.tenancy i = some t) : t.deferred = none ∧ t.state ≠ .closing := by
    rcases lively_tenancy.1 ht with ⟨-, rfl⟩ | ⟨-, rfl⟩ <;> simp [lease]
  have empty (c : Channel) : (lively.channel c).deferral = [] := by fin_cases c <;> rfl
  refine ⟨⟨fun c => ⟨by simp [empty], by simp [empty], fun i => ?_⟩, fun i t ht hs => absurd hs (none t i ht).2⟩, rfl⟩
  simp only [empty, List.not_mem_nil, false_iff]; rintro ⟨t, ht, -, hd⟩; exact hd (none t i ht).1

theorem witness_StepKeepsAttachment : lively.AttachmentLaw ∧ step lively = .next (after (step lively)) := by
  refine ⟨⟨fun i t ht => ?_, fun i j t u hij ht hu _ _ ho => ?_⟩, rfl⟩
  · rcases lively_tenancy.1 ht with ⟨-, rfl⟩ | ⟨-, rfl⟩ <;> exact rfl
  · rcases lively_tenancy.1 ht with ⟨rfl, rfl⟩ | ⟨rfl, rfl⟩ <;> rcases lively_tenancy.1 hu with ⟨rfl, rfl⟩ | ⟨rfl, rfl⟩ <;>
      first | exact absurd rfl hij | exact absurd ho (by decide)

theorem witness_StepKeepsFieldsInRange :
    lively.StationLine ∧ lively.EntriesInRange ∧ lively.TransitBounded ∧ lively.RecordInRange ∧ lively.SettingsInRange ∧
      step lively = .next (after (step lively)) ∧ lively.LimitsInRange ∧ lively.TimersInRange := by
  refine ⟨lively_stationLine, fun i t ht => ?_, by unfold State.TransitBounded; decide,
    ⟨by decide, by decide, by decide, by decide, ?_⟩, by unfold State.SettingsInRange; decide +kernel, rfl,
    by unfold State.LimitsInRange; decide +kernel, fun i t ht => ?_, by decide +kernel, by decide +kernel,
    fun serial origin circuit h => ?_, nofun, fun timer h => ?_, nofun, fun owed h => ?_⟩
  · rcases lively_tenancy.1 ht with ⟨-, rfl⟩ | ⟨-, rfl⟩
    · exact ⟨by decide, by decide, by decide, by decide, by decide, by decide +kernel, show 50 ≤ 100 by decide⟩
    · exact ⟨by decide, by decide, by decide, by decide, by decide, by decide +kernel, rfl⟩
  · intro store v o h; exact absurd (show Receiver.between = _ from h) (by simp)
  · rcases lively_tenancy.1 ht with ⟨-, rfl⟩ | ⟨-, rfl⟩ <;> trivial
  · cases h; decide
  · cases h; decide
  · cases h; decide

theorem witness_QuotaLeavesAFreeEntry :
    lively.QuotaHeld ∧ lively.config.quotaSum = 64 ∧ lively.nonFree 1 < (lively.limits 1).quota :=
  ⟨lively_quotaHeld, by decide +kernel, by decide +kernel⟩

theorem witness_ConfigurationIsFrozen :
    exec (.setRoute 0 0 1 3) off = .next (run (.setRoute 0 0 1 3) off) ∧ (run (.setRoute 0 0 1 3) off).config ≠ off.config :=
  ⟨rfl, by decide +kernel⟩

theorem witness_GenerationsChangeOnlyAtOpening :
    exec (.claim 0 1 7 2 0 1 1) ring = .next (run (.claim 0 1 7 2 0 1 1) ring) := rfl

/-! CLAIM. -/

/-- NOT_UP in JOINING and while leaving; each number of check 2 just out of range; check 3 above the ceiling; check 4; check 5;
check 6 with the quota reached. -/
theorem witness_ClaimIsRefusedByItsFirstFailingCheck :
    (ringIn .joining).station.state ≠ .up ∧ (ring.modifyStation ({ · with leaving := true })).station.leaving = true ∧
      ring.rstnLow = false ∧ ring.station.state = .up ∧ ring.station.leaving = false ∧
      ¬ ClaimInRange (ring.limits 0) 3 0 1 1 ∧ ¬ ClaimInRange (ring.limits 0) 1 8 1 1 ∧ ¬ ClaimInRange (ring.limits 0) 1 0 0 1 ∧
      ¬ ClaimInRange ⟨16, 7, 65534⟩ 1 0 65535 1 ∧ ¬ ClaimInRange (ring.limits 0) 1 0 1 0 ∧
      ¬ ClaimInRange (ring.limits 0) 1 0 1 16 ∧ ClaimInRange (ring.limits 0) 2 7 65535 15 ∧ ModeByte 2 .exclusive ∧
      (⟨16, 6, 65535⟩ : Limits).ceiling < (7 : Byte).toNat := by
  refine ⟨by decide, by decide, by decide, by decide, by decide, ?_⟩
  have h : ring.limits 0 = ⟨16, 7, 65535⟩ := rfl
  rw [h]; unfold ClaimInRange ModeByte; decide +kernel

theorem witness_ClaimIsRefused_by_window (ch : Channel) :
    ¬ (ring.modifyConfig fun c => { c with windows := Vector.replicate 4 (Vector.replicate 4 Window.disabled) }).WindowAllows
      ch 0x000123 .shared := by
  rw [← State.windowsPermit_iff]; revert ch; decide +kernel

theorem witness_ClaimIsRefused_as_already_claimed : (one (lease .closing)).AttachedOn 1 0x000123 :=
  ⟨5, lease .closing, one_at _, rfl, rfl, rfl⟩

theorem witness_ClaimIsRefused_at_the_quota :
    ¬ ((one (lease .closing)).modifyConfig fun c => { c with limits := Vector.replicate 4 ⟨1, 7, 65535⟩ }).AttachedOn 1 0x000124 ∧
      (((one (lease .closing)).modifyConfig fun c => { c with limits := Vector.replicate 4 ⟨1, 7, 65535⟩ }).limits 1).quota =
        ((one (lease .closing)).modifyConfig fun c => { c with limits := Vector.replicate 4 ⟨1, 7, 65535⟩ }).nonFree 1 := by
  constructor
  · rw [← State.hasAttached_iff]; decide +kernel
  · decide +kernel

/-- Beside a CLOSING entry on the tag nothing is in the way. -/
theorem witness_ClaimGoesToTheRing :
    (one (lease .closing)).rstnLow = false ∧ (one (lease .closing)).ClaimPasses 2 0x000123 2 7 65535 15 .exclusive ∧
      (one (lease .closing)).LowestFree 0 ∧ (one (lease .closing)).waitList 0x000123 = [] ∧
      ¬ (one (lease .closing)).Blocked 0x000123 ∧ ¬ (one (lease .closing)).HeldOn 0x000123 :=
  ⟨rfl, one_passes rfl (.inr ⟨rfl, rfl⟩), one_free _, rfl, fun h => absurd (one_blocked.1 h) (by decide),
    fun h => absurd (one_heldOn.1 h) (by decide)⟩

/-- Behind a waiter, a BACKOFF entry, a SHARED holder for an EXCLUSIVE claim, an EXCLUSIVE holder. -/
theorem witness_ClaimWaits :
    (((one (lease .queuedLocal)).setWaiting [5]).waitList 0x000123 ≠ []) ∧ (one (lease (.backoff 1))).Blocked 0x000123 ∧
      (one (shared (.held 1 false))).HeldOn 0x000123 ∧ (one (lease (.held 1 false))).HeldExclusiveOn 0x000123 ∧
      (one (lease (.held 1 false))).ClaimPasses 2 0x000123 1 7 65535 15 .shared ∧ (one (lease (.held 1 false))).LowestFree 0 :=
  ⟨by decide +kernel, one_blocked.2 rfl, one_heldOn.2 rfl, one_heldExclusiveOn.2 ⟨rfl, rfl⟩, one_passes rfl (.inl ⟨rfl, rfl⟩),
    one_free _⟩

/-- With room in the claimant's queue and without. -/
theorem witness_ClaimJoins :
    (one (shared (.held 1 false))).ClaimPasses 2 0x000123 1 7 65535 15 .shared ∧ (one (shared (.held 1 false))).LowestFree 0 ∧
      (one (shared (.held 1 false))).waitList 0x000123 = [] ∧ ¬ (one (shared (.held 1 false))).Blocked 0x000123 ∧
      (one (shared (.held 1 false))).HeldOn 0x000123 ∧ ¬ (one (shared (.held 1 false))).HeldExclusiveOn 0x000123 ∧
      (one (shared (.held 1 false))).RoomAt 2 ∧
      ¬ ((one (shared (.held 1 false))).modifyChannel 2 ({ · with queue := List.replicate 24 (.void 3) })).RoomAt 2 := by
  refine ⟨one_passes rfl (.inl ⟨rfl, rfl⟩), one_free _, rfl, fun h => absurd (one_blocked.1 h) (by decide), one_heldOn.2 rfl,
    fun h => absurd (one_heldExclusiveOn.1 h) (by decide), ?_, ?_⟩
  · exact ⟨by decide +kernel, by decide +kernel⟩
  · rintro ⟨h, -⟩; exact absurd h (by decide +kernel)

/-! Handles. -/

/-- Index 64; a FREE entry; another channel's; generation 31, whose low bits agree; a detached entry. -/
theorem witness_BadAndGoneHandlesChangeNothing :
    (one (lease .queuedLocal)).HandleBad 1 64 15 ∧ (one (lease .queuedLocal)).HandleBad 1 63 0 ∧
      (one (lease .queuedLocal)).HandleBad 2 5 15 ∧ (one (lease .queuedLocal)).HandleBad 1 5 31 ∧
      (one { lease (.releasing .queued) with attached := false }).HandleGone 1 5 15 := by
  refine ⟨.inl (by decide), .inr ⟨63, by decide, fun t h => ?_⟩, .inr ⟨5, by decide, fun t h => ?_⟩,
    .inr ⟨5, by decide, fun t h => ?_⟩, ⟨5, _, by decide, one_at _, rfl, by rw [one_entry]; decide, rfl⟩⟩
  · exact absurd (one_tenancy.1 h).1 (by decide)
  · obtain ⟨-, rfl⟩ := one_tenancy.1 h; exact .inl (by decide)
  · rw [one_entry]; exact .inr (by decide)

/-- An entry in each state without a lease: the head of its list and a later waiter, with and without a deferred notice. -/
theorem witness_ReleaseOfAnEntryWithoutALease :
    (one (lease .queuedLocal)).Names 1 5 15 5 (lease .queuedLocal) ∧
      (one (lease (.claiming .queued true))).Names 1 5 15 5 (lease (.claiming .queued true)) ∧
      (one (lease (.claiming (.inFlight 255 1) true))).Names 1 5 15 5 (lease (.claiming (.inFlight 255 1) true)) ∧
      (one (lease (.backoff 0))).Names 1 5 15 5 (lease (.backoff 0)) ∧
      (one { lease .closing with deferred := some notice }).Names 1 5 15 5 { lease .closing with deferred := some notice } :=
  ⟨one_names rfl rfl, one_names rfl rfl, one_names rfl rfl, one_names rfl rfl, one_names rfl rfl⟩

/-- Beside another holder; a hand-on; to the ring with remote demand and, in DOWN, without a frame. -/
theorem witness_ReleaseOfALease :
    (two (shared (.held 9 false)) (other (shared (.held 1 false)))).Names 1 5 15 5 (shared (.held 9 false)) ∧
      ¬ (two (shared (.held 9 false)) (other (shared (.held 1 false)))).LastHolder 5 0x000123 ∧
      (one (lease (.held 9 false))).Names 1 5 15 5 (lease (.held 9 false)) ∧ (one (lease (.held 9 false))).LastHolder 5 0x000123 ∧
      ((two (lease (.held 9 false)) (other (lease .queuedLocal))).setWaiting [9]).waitList 0x000123 = [9] ∧
      (two (lease (.held 9 false)) (other (lease .queuedLocal))).tenancy 9 = some (other (lease .queuedLocal)) ∧
      (one (lease (.held 9 false))).lease.taken = .up ∧ ((one (lease (.held 9 false))).setTaken .down).lease.taken ≠ .up := by
  refine ⟨⟨by decide, two_tenancy.2 (.inl ⟨rfl, rfl⟩), rfl, by decide +kernel, rfl⟩, fun h => ?_, one_names rfl rfl, one_lastHolder _,
    by decide +kernel, by decide +kernel, rfl, by decide⟩
  exact absurd (h 9 _ (by decide) (two_tenancy.2 (.inr ⟨rfl, rfl⟩)) rfl) (by decide)

/-- The term one above max term, at max term, and 0; a HELD entry and a waiter. -/
theorem witness_RenewRestartsTheTerm :
    (one (lease (.held 0 true))).Names 1 5 15 5 (lease (.held 0 true)) ∧ (⟨16, 7, 65534⟩ : Limits).maxTerm < (65535 : Word).toNat ∧
      (65535 : Word).toNat ≤ ((one (lease (.held 0 true))).limits 1).maxTerm ∧
      (0 : Word).toNat ≤ ((one (lease (.held 0 true))).limits 1).maxTerm ∧
      (∀ remaining demand, (lease .queuedLocal).state ≠ .held remaining demand) ∧
      (one (lease .queuedLocal)).Names 1 5 15 5 (lease .queuedLocal) :=
  ⟨one_names rfl rfl, by decide, by decide +kernel, by decide +kernel, fun _ _ => by simp [lease], one_names rfl rfl⟩

/-- A QUERY of a HELD entry with remaining term 258, without and with remote demand, and a last refusal by station 63. -/
def queried (demand : Bool) : QueryValues :=
  { state := .held, mode := .shared, tag := 0x000123, attempts := 1, remaining := some 258, remoteDemand := some demand,
    lastRefusal := some ⟨.yield, some 63⟩ }

/-- R187: the premises on the bytes of a QUERY are met, and its bytes are those of the table. -/
theorem witness_ReportsChangeOnlyTheResultSlot_of_a_query :
    ((0x0B : Byte).getLsbD 0 = (queried false).remaining.isSome ∧ (0x0B : Byte).getLsbD 1 = (queried false).remoteDemand.isSome ∧
        (0x0B : Byte).getLsbD 2 = decide ((queried false).remoteDemand = some true) ∧
        (0x0B : Byte).getLsbD 3 = (queried false).lastRefusal.isSome ∧ (0x0B : Byte).toNat < 16) ∧
      (ResultValues.query (queried false)).bytes = [4, 1, 0, 1, 0x23, 1, 1, 2, 0x0B, 0x02, 0xBF] := by decide

/-- A HELD and a CLOSING entry; MEMBERS below, at and above the member count and at 63 and 64; an unknown code. -/
theorem witness_ReportsChangeOnlyTheResultSlot :
    (one (lease (.held 7 false))).Names 1 5 15 5 (lease (.held 7 false)) ∧
      (one (lease .closing)).Names 1 5 15 5 (lease .closing) ∧ (∀ r d, (lease .closing).state ≠ .held r d) ∧
      63 < (64 : Byte).toNat ∧ (63 : Byte).toNat ≤ 63 ∧
      (ring.modifyStation ({ · with view := [⟨7, 1⟩] })).station.view[(0 : Byte).toNat]? = some ⟨7, 1⟩ ∧
      (ring.modifyStation ({ · with view := [⟨7, 1⟩] })).station.view.length ≤ (1 : Byte).toNat ∧ (0x17 : Byte) ∉ knownCodes :=
  ⟨one_names rfl rfl, one_names rfl rfl, fun _ _ => by simp [lease], by decide, by decide, by decide, by decide, by decide⟩

/-- `lively`, whose entry is released to the ring by a reset of channel 1; targets 3 and 4. -/
theorem witness_ChannelResetClearsTheChannel :
    lively.rstnLow = false ∧ lively.AttachmentLaw ∧ (3 : Byte).toNat = (3 : Channel).val ∧ 3 < (4 : Byte).toNat ∧
      lively.ResetToTheRing 1 5 (lease (.held 50 true)) ∧ ring.waitList 0x000123 = [] := by
  refine ⟨rfl, witness_StepKeepsAttachment.1, by decide, by decide, ⟨rfl, fun j t h k _ => ?_, ?_, rfl⟩, rfl⟩
  · rcases lively_tenancy.1 k with ⟨rfl, rfl⟩ | ⟨rfl, rfl⟩
    · exact absurd rfl h
    · rfl
  · rintro ⟨⟨r, hr⟩, -⟩; cases hr

/-- A hand-on of a reset of channel 1 to a waiter of channel 2: the last EXCLUSIVE holder, without remote demand. -/
theorem witness_ChannelReset_hands_on :
    ((two (lease (.held 9 false)) (other (lease .queuedLocal))).setWaiting [9]).ResetHandsOn 1 5 (lease (.held 9 false)) ∧
      ((two (lease (.held 9 false)) (other (lease .queuedLocal))).setWaiting [9]).waitList 0x000123 = 9 :: [] ∧
      ((two (lease (.held 9 false)) (other (lease .queuedLocal))).setWaiting [9]).tenancy 9 = some (other (lease .queuedLocal)) := by
  refine ⟨⟨⟨9, rfl⟩, rfl, fun j t h k _ => ?_, by decide +kernel⟩, by decide +kernel, by decide +kernel⟩
  rcases two_tenancy.1 k with ⟨rfl, rfl⟩ | ⟨rfl, rfl⟩
  · exact absurd rfl h
  · rfl

/-! The commands of channel 0. -/

/-- On channel 3; LEAVE in OFFLINE and while leaving; START in UP and SET ROUTE while leaving. -/
theorem witness_CommandsOfChannelZeroAreRefused :
    channelZeroOnly (.resetChannelN 3 9 0) = some (3, 0x26, 9) ∧ channelZeroOnly (.leave 0 9) = some (0, 0x25, 9) ∧
      off.station.state = .offline ∧ (ring.modifyStation ({ · with leaving := true })).station.leaving = true ∧
      channelZeroOnly (.start 0 9) = some (0, 0x24, 9) ∧ ring.station.state ≠ .offline ∧
      channelZeroOnly (.setRoute 0 9 1 1) = some (0, 0x23, 9) ∧ ring.rstnLow = false := by decide

/-- Quotas of 64 in all; quotas of 65; a ring limit of 1. -/
theorem witness_StartBeginsJoining :
    off.rstnLow = false ∧ off.station.state = .offline ∧ off.station.leaving = false ∧ off.SettingsInRange ∧
      off.config.quotaSum = 64 ∧
      64 < (off.modifyConfig fun c => { c with limits := c.limits.set 0 ⟨17, 7, 1⟩ }).config.quotaSum ∧
      ¬ (off.modifyConfig fun c => { c with settings := { c.settings with ringLimit := 1 } }).SettingsInRange := by
  unfold State.SettingsInRange; decide +kernel

/-- With a frame on ring-out, between frames, and in SETTLING; with an arrival and without; channel 0 takes RING_STATE and has
room for two records, for one or for none, channel 1 is full, with a marker and without. -/
theorem witness_LeaveFreesEveryEntry :
    ring.rstnLow = false ∧ ring.station.state ≠ .offline ∧ ring.station.leaving = false ∧ ring.line.mode = .inserted ∧
      (ring.modifyLine ({ · with transmitter := .sending [1] 1 })).line.transmitter = .sending [1] 1 ∧
      (∀ ws sent, ring.line.transmitter ≠ .sending ws sent) ∧
      ((ringIn .joining).modifyLine ({ · with mode := .settling 1 })).line.mode = .settling 1 ∧
      (ring.modifyFrames ({ · with arrivals := [⟨[1, 2], false, false, true⟩] })).frames.arrivals ≠ [] ∧
      ring.frames.arrivals = [] ∧ (0 : Channel) = ring.config.routing.ring ∧ (1 : Channel) ≠ ring.config.routing.ring ∧
      (List.replicate 22 (EventRecord.void 3)).length < 23 ∧ (List.replicate 23 (EventRecord.void 3)).length = 23 ∧
      ((ring.modifyChannel 0 ({ · with queue := List.replicate 23 (.void 3) })).channel 0).deferral = [] ∧
      24 ≤ ((full ring).channel 1).queue.length ∧ ((full ring).channel 1).deferral.filter DeferralItem.isMarker = [] ∧
      (((full ring).modifyChannel 1 ({ · with deferral := [.entry 5, .marker {}] })).channel 1).deferral.filter
        DeferralItem.isMarker ≠ [] := by
  refine ⟨rfl, by decide, rfl, rfl, rfl, fun _ _ => by simp [ring, State.modifyLine, State.modifyConfig], rfl, ?_⟩
  decide +kernel

/-- Every argument at an end of its range and one beyond. -/
theorem witness_ConfigureStationWritesSixSettings :
    ((63 : Byte).toNat ≤ 63 ∧ 2 ≤ (2 : Byte).toNat ∧ (64 : Byte).toNat ≤ 64 ∧ 1 ≤ (1 : Byte).toNat) ∧ 63 < (64 : Byte).toNat ∧
      (1 : Byte).toNat < 2 ∧ 64 < (65 : Byte).toNat ∧ (0 : Byte).toNat = 0 ∧ off.station.state = .offline ∧
      off.station.leaving = false ∧ ring.station.state ≠ .offline ∧ (3 : Channel) ≠ 0 := by decide

/-- Target 3 and 4; quota 64 and 65; ceiling 7 and 8; max term 1 and 0; window 3 and 4; the three classes and VOID's code. -/
theorem witness_LimitsWindowsAndRoutesAreWritten :
    (3 : Byte).toNat = (3 : Channel).val ∧ (64 : Byte).toNat ≤ 64 ∧ (7 : Byte).toNat ≤ 7 ∧ 1 ≤ (1 : Word).toNat ∧
      3 < (4 : Byte).toNat ∧ 64 < (65 : Byte).toNat ∧ 7 < (8 : Byte).toNat ∧ (0 : Word).toNat = 0 ∧
      (3 : Byte).toNat = (3 : WindowIx).val ∧ (4 : Byte) ∉ [(0x01 : Byte), 0x02, 0x03] ∧ off.rstnLow = false ∧
      off.station.state = .offline ∧ off.station.leaving = false := by decide

/-! Ports and the Event Block. -/

/-- A select that is high, one under way between bytes in each phase, one that is ignored, RSTn low, and WRITE COMMANDs of 16
and of 15 bytes. -/
theorem witness_PortErrorFlagIsSetAndRead :
    ring.rstnLow = false ∧ (0x05 : Byte) ∉ knownOpcodes ∧ ring.port 1 = .idle ∧ ({ off with rstnLow := true } : State).port 1 = .idle ∧
      reading.port 1 = .active (.shifting 1) [] ∧ (ring.selectFalls 1).port 1 = .active .opcode [] ∧
      (run .deviceReset reading).port 1 = .ignored ∧
      (ring.setPort 1 (.active (.writing (0x14 :: List.replicate 15 0)) [])).port 1 =
        .active (.writing (0x14 :: List.replicate 15 0)) [] ∧
      16 ≤ (0x14 :: List.replicate 15 0 : List Byte).length ∧
      decodeRecord 1 ((0x14 :: List.replicate 15 0).take 16) = some (.status 1 0) ∧
      (List.replicate 15 0 : List Byte).length < 16 ∧
      (ring.setPort 1 (.active (.writing (List.replicate 15 0)) [])).port 1 = .active (.writing (List.replicate 15 0)) [] := by
  decide +kernel

/-- An empty queue; 24 records with nothing, with the marker and with an entry deferred, which is HELD or CLOSING. -/
theorem witness_ReadEventDeliversTheHead :
    notice.kind = .granted .exclusive ∧ (ring.channel 1).queue = [] ∧ ((full ring).channel 1).queue = .void 3 :: List.replicate 23 (.void 3) ∧
      ((full ring).channel 1).deferral = [] ∧
      (((full ring).modifyChannel 1 ({ · with deferral := [.marker { void := true }] })).channel 1).deferral =
        [.marker { void := true }] ∧
      (((full (one { lease (.held 3 true) with deferred := some notice })).modifyChannel 1
        ({ · with deferral := [.entry 5] })).channel 1).deferral = [.entry 5] ∧
      (one { lease (.held 3 true) with deferred := some notice }).tenancy 5 =
        some { lease (.held 3 true) with deferred := some notice } ∧ (lease (.held 3 true)).state ≠ .closing ∧
      (one { lease .closing with deferred := some notice }).tenancy 5 =
        some { lease .closing with deferred := some notice } := by decide +kernel

/-- Room for the last record; no room with the slot empty, with a notice in it and with a terminal one. -/
theorem witness_LeaseNoticeIsQueuedOrDeferred :
    ((one (lease .closing)).modifyChannel 1 ({ · with queue := List.replicate 23 (.void 3) })).RoomAt 1 ∧
      ¬ (full (one (lease .closing))).RoomAt 1 ∧ (full (one (lease .closing))).tenancy 5 = some (lease .closing) ∧
      (lease .closing).deferred = none ∧ notice.kind.terminal = false ∧ LeaseKind.expired.terminal = true ∧
      (full (one { lease .closing with deferred := some notice })).tenancy 5 =
        some { lease .closing with deferred := some notice } := by
  unfold State.RoomAt; decide +kernel

/-- Room; no room and no marker; a marker between two entries. -/
theorem witness_StationEventIsQueuedOrSuppressed :
    ring.RoomAt (ring.config.routing.channelOf .faults) ∧ ¬ (full ring).RoomAt 1 ∧
      (∀ set, DeferralItem.marker set ∉ ((full ring).channel 1).deferral) ∧
      (((full ring).modifyChannel 1 ({ · with deferral := [.entry 1, .marker {}, .entry 2] })).channel 1).deferral =
        [.entry 1] ++ .marker {} :: [.entry 2] ∧
      (∀ x ∈ [DeferralItem.entry 1] ++ [.entry 2], x.isMarker = false) ∧
      ((full ring).modifyConfig fun c => { c with routing := ⟨1, 1, 1⟩ }).config.routing.channelOf .faults = 1 := by
  have h : ((full ring).channel 1).deferral = [] := rfl
  refine ⟨⟨by decide +kernel, rfl⟩, fun k => absurd k.1 (by decide +kernel), fun _ => by simp [h], rfl, by decide, rfl⟩

theorem witness_TenancyEndsInFreeOrClosing :
    (one (lease .queuedLocal)).tenancy 5 = some (lease .queuedLocal) ∧ (lease .queuedLocal).deferred = none ∧
      (one { lease .queuedLocal with deferred := some notice }).tenancy 5 =
        some { lease .queuedLocal with deferred := some notice } := ⟨one_at _, rfl, one_at _⟩

/-- An empty list; a head that is blocked, that conflicts with a holder, that joins, that goes to the ring, that is denied in
HALTED. -/
theorem witness_ExaminationTreatsTheHeads :
    ring.waitList 0x000123 = [] ∧
      ((two (shared (.held 9 false)) (other (shared .queuedLocal))).setWaiting [9]).waitList 0x000123 = [9] ∧
      (two (shared (.held 9 false)) (other (shared .queuedLocal))).tenancy 9 = some (other (shared .queuedLocal)) ∧
      ¬ (two (shared (.held 9 false)) (other (shared .queuedLocal))).Blocked 0x000123 ∧
      (two (shared (.held 9 false)) (other (shared .queuedLocal))).HeldOn 0x000123 ∧
      ¬ (two (shared (.held 9 false)) (other (shared .queuedLocal))).HeldExclusiveOn 0x000123 ∧
      (two (lease (.held 9 false)) (other (shared .queuedLocal))).HeldExclusiveOn 0x000123 ∧
      (two (lease (.claiming .queued false)) (other (shared .queuedLocal))).Blocked 0x000123 ∧
      ((one (lease .queuedLocal)).setWaiting [5]).waitList 0x000123 = [5] ∧ ¬ (one (lease .queuedLocal)).Blocked 0x000123 ∧
      ¬ (one (lease .queuedLocal)).HeldOn 0x000123 ∧ (one (lease .queuedLocal)).lease.taken = .up ∧
      ((one (lease .queuedLocal)).setTaken .halted).lease.taken = .halted := by
  simp only [← State.blocked_iff, ← State.heldOn_iff, ← State.heldExclusiveOn_iff]; decide +kernel

/-! Arrivals. -/

/-- A frame cut short after two words. -/
def broken : Arrival := { words := [1, 2], violation := false, overlong := false, cutShort := true }

/-- Scores just below and at the ends: 87 and 88 reach 95 and 96, 246 and 247 reach 254 and 255; from 65 and 64 an intact arrival
clears nothing and the warning. -/
theorem witness_ArrivalsMoveTheFaultScore :
    (ring.modifyFrames ({ · with arrivals := [broken] })).Arrives broken [] ∧ broken.judge = none ∧ min 255 (87 + 8) < 96 ∧
      96 ≤ min 255 (88 + 8) ∧ min 255 (246 + 8) < 255 ∧ min 255 (247 + 8) = 255 ∧ min 255 (255 + 8) = 255 ∧ 64 - 1 < 64 ∧
      64 ≤ 65 - 1 ∧ ring.station.state = .up ∧ ring.station.faultWarning = false ∧
      (ring.modifyStation ({ · with faultWarning := true })).station.faultWarning = true ∧
      (ring.modifyStation ({ · with faultWarning := true, faultScore := 64 })).station.faultScore - 1 < 64 := by
  refine ⟨⟨rfl, rfl, by decide⟩, ?_⟩; decide +kernel

/-- A CLAIM of this station, attempt frame serial 4, with the marks given. -/
def ownClaim (held yield : Bool) (objector : Option StationNo) : Frame :=
  { source := 7, check := 0x1234, hop := 3, serial := 4, body := .claim 0x000123 .exclusive 4 held yield objector }

/-- An arrival of a frame's own words. -/
def arrivalOf (f : Frame) : Arrival := { words := f.encode, violation := false, overlong := false, cutShort := false }

/-- A state to which the frame has come. -/
def withArrival (s : State) (f : Frame) : State := s.modifyFrames ({ · with arrivals := [arrivalOf f] })

theorem withArrival_arrives {s : State} (f : Frame) (h : s.line.mode = .inserted) (k : s.station.state ≠ .offline) :
    (withArrival s f).Arrives (arrivalOf f) [] := ⟨rfl, h, k⟩

theorem witness_UnmatchedOwnClaimIsStripped :
    (withArrival (one (lease (.claiming (.inFlight 5 1) false))) (ownClaim false false none)).Arrives
        (arrivalOf (ownClaim false false none)) [] ∧
      (arrivalOf (ownClaim false false none)).judge = some (ownClaim false false none) ∧ ring.Own (ownClaim false false none) ∧
      ∀ i t circuit lost, (one (lease (.claiming (.inFlight 5 1) false))).tenancy i = some t → t.tag = 0x000123 →
        t.state ≠ .claiming (.inFlight 4 circuit) lost := by
  refine ⟨withArrival_arrives _ rfl (by decide), by decide +kernel, ⟨by decide, by decide⟩, fun i t c l h _ => ?_⟩
  obtain ⟨-, rfl⟩ := one_tenancy.1 h; simp [lease]

/-- Clean, marked HELD, marked YIELD, and lost; an attempt below and at its limit; a detached entry. -/
theorem witness_OwnClaimReturnGrantsOrFails :
    (withArrival (one (lease (.claiming (.inFlight 4 1) true))) (ownClaim true false (some 9))).Arrives
        (arrivalOf (ownClaim true false (some 9))) [] ∧
      (arrivalOf (ownClaim false false none)).judge = some (ownClaim false false none) ∧
      (arrivalOf (ownClaim true false (some 9))).judge = some (ownClaim true false (some 9)) ∧
      (arrivalOf (ownClaim false true (some 9))).judge = some (ownClaim false true (some 9)) ∧
      ring.Own (ownClaim true false (some 9)) ∧
      (one (lease (.claiming (.inFlight 4 1) true))).tenancy 5 = some (lease (.claiming (.inFlight 4 1) true)) ∧
      (lease (.claiming (.inFlight 4 1) true)).attempts < (lease (.claiming (.inFlight 4 1) true)).attemptLimit ∧
      ({ lease (.claiming (.inFlight 4 1) true) with attempts := 2 } : Tenancy).attemptLimit ≤ 2 ∧
      (lease (.claiming (.inFlight 4 1) true)).attached = true ∧
      ({ lease (.claiming (.inFlight 4 1) true) with attached := false } : Tenancy).attached = false ∧
      ∀ j u c l, j ≠ 5 → (one (lease (.claiming (.inFlight 4 1) true))).tenancy j = some u → u.tag = 0x000123 →
        u.state ≠ .claiming (.inFlight 4 c) l := by
  refine ⟨withArrival_arrives _ rfl (by decide), by decide +kernel, by decide +kernel, by decide +kernel, ⟨by decide, by decide⟩,
    one_at _, by decide, by decide, rfl, rfl, fun j u c l h k _ => absurd k (one_alone h)⟩

/-- A RELEASE of this station with serial 4. -/
def ownRelease : Frame := { source := 7, check := 0x1234, hop := 3, serial := 4, body := .release 0x000123 }
/-- A CENSUS of this station with serial 3. -/
def ownCensus (members : List Member) : Frame :=
  { source := 7, check := 0x1234, hop := 3, serial := 3, body := .census members }

/-- A RELEASE that matches and one that does not; a CENSUS without and with its own in flight, at circuit times 1 and 255000 us,
with and without a duplicate; scores 32 and 33. -/
theorem witness_OwnReleaseAndCensusReturns :
    (arrivalOf ownRelease).judge = some ownRelease ∧ ring.Own ownRelease ∧
      (one { lease (.releasing (.inFlight 4 1)) with attached := false }).tenancy 5 =
        some { lease (.releasing (.inFlight 4 1)) with attached := false } ∧
      (∀ i t circuit, ring.tenancy i = some t → t.tag = 0x000123 → t.state ≠ .releasing (.inFlight 4 circuit)) ∧
      (arrivalOf (ownCensus [⟨7, 0xABCD1234⟩, ⟨9, 1⟩])).judge = some (ownCensus [⟨7, 0xABCD1234⟩, ⟨9, 1⟩]) ∧
      (∀ origin circuit, ring.station.census ≠ .inFlight 3 origin circuit) ∧
      (ring.modifyStation ({ · with census := .inFlight 3 10 20 })).station.census = .inFlight 3 10 20 ∧ 1 ≤ 11 - 10 ∧
      255010 - 10 ≤ 255000 ∧
      (∃ m ∈ ([⟨7, 0xABCD1234⟩, ⟨7, 1⟩] : List Member).tail, m.number = ring.config.settings.stationNumber ∧
        m.identity ≠ ring.identity) ∧
      (∀ m ∈ ([⟨7, 0xABCD1234⟩, ⟨9, 1⟩] : List Member).tail, m.number = ring.config.settings.stationNumber →
        m.identity = ring.identity) ∧
      (ringIn .joining).station.state = .joining ∧ ((ringIn .down).afterIntact []).station.faultScore ≤ 32 ∧
      32 < (((ringIn .down).modifyStation ({ · with faultScore := 34 })).afterIntact []).station.faultScore := by
  refine ⟨by decide +kernel, ⟨by decide, by decide⟩, one_at _, fun i t c h => ?_, by decide +kernel, fun _ _ => ?_, rfl, by decide, by decide,
    by decide, by decide, rfl, by decide +kernel, by decide +kernel⟩
  · rw [ring_tenancy] at h; cases h
  · simp [ring, State.modifyStation, State.modifyLine, State.modifyConfig, State.reset, StationRecord.reset]

/-! Foreign frames. -/

/-- Standings 4 and 3; the same standing and numbers 3 and 4. -/
theorem witness_ClaimsAreOrderedByStandingThenNumber : 3 < 4 ∧ (3 : StationNo) ≠ 4 ∧ (3 : StationNo).toNat < (4 : StationNo).toNat := by
  decide

/-- Another station's frame one hop below the ring limit's and at it, and one with this station's number, for which one of the two
orders is drawn; a change that the Lease Table has not taken. -/
theorem witness_ForeignFramesAreStrippedOrPassed :
    (withArrival ring example104).Arrives (arrivalOf example104) [] ∧ (arrivalOf example104).judge = some example104 ∧
      ¬ ring.Own example104 ∧ ¬ ring.Own { example104 with source := 7 } ∧ ring.station.state ≠ .halted ∧
      ring.config.settings.ringLimit = 64 ∧ 64 ≤ (63 : BitVec 6).toNat + 1 ∧ (62 : BitVec 6).toNat + 1 < 64 ∧
      (Config.haltedFirst ring.choices = false ∨ Config.haltedFirst ring.choices = true) ∧
      (ring.setChanges [.down]).lease.changes ≠ [] := by
  refine ⟨withArrival_arrives _ rfl (by decide), by decide +kernel, by unfold State.Own; decide, by unfold State.Own; decide, by decide,
    rfl, by decide, by decide, ?_, by decide⟩
  cases Config.haltedFirst ring.choices <;> simp

/-- A holder in conflict, a SHARED holder, no position, and a pending claim of standing 4 against 3, 4 and 5, from stations 6, 7
and 8. -/
theorem witness_PassingClaimIsJudged :
    (one (lease (.held 1 false))).HeldExclusiveOn 0x000123 ∧ (one (shared (.held 1 false))).HeldOn 0x000123 ∧
      ¬ (one (shared (.held 1 false))).HeldExclusiveOn 0x000123 ∧ ¬ ring.HeldOn 0x000123 ∧
      (∀ i t phase lost, ring.tenancy i = some t → t.tag = 0x000123 → t.attached = true → t.state ≠ .claiming phase lost) ∧
      ¬ (one (lease (.claiming .queued false))).HeldOn 0x000123 ∧
      (one (lease (.claiming .queued false))).tenancy 5 = some (lease (.claiming .queued false)) ∧
      (∀ j u ph l, j ≠ 5 → (one (lease (.claiming .queued false))).tenancy j = some u → u.tag = 0x000123 → u.attached = true →
        u.state ≠ .claiming ph l) ∧
      min 15 ((lease (.claiming .queued false)).priority + ((lease (.claiming .queued false)).attempts + 1) - 1) = 4 ∧
      (3 : BitVec 4).toNat < 4 ∧ 4 < (5 : BitVec 4).toNat ∧ (4 : BitVec 4).toNat = 4 ∧
      ring.config.settings.stationNumber.toNat < (8 : StationNo).toNat ∧
      (6 : StationNo).toNat < ring.config.settings.stationNumber.toNat ∧ (7 : StationNo) = ring.config.settings.stationNumber := by
  refine ⟨one_heldExclusiveOn.2 ⟨rfl, rfl⟩, one_heldOn.2 rfl, fun h => absurd (one_heldExclusiveOn.1 h).2 (by decide),
    fun ⟨i, t, h, _⟩ => ?_, fun i t p l h => ?_, fun h => absurd (one_heldOn.1 h) (by decide), one_at _,
    fun j u p l h k => absurd k (one_alone h), by decide, by decide, by decide, by decide, by decide, by decide, by decide⟩
  · rw [ring_tenancy] at h; cases h
  · rw [ring_tenancy] at h; cases h

/-- An entry not HELD, one not notified, beside a full queue too, and one notified before; 24 records with the new notice. -/
theorem witness_HolderDemandsOnEveryLease :
    (one (lease .closing)).tenancy 5 = some (lease .closing) ∧ (lease .closing).isHeld = false ∧
      (one (lease (.held 1 false))).tenancy 5 = some (lease (.held 1 false)) ∧
      (full (one (lease (.held 1 false)))).tenancy 5 = some (lease (.held 1 false)) ∧
      (one { lease (.held 1 true) with contendedNotified := true }).tenancy 5 =
        some { lease (.held 1 true) with contendedNotified := true } ∧
      (((one (lease (.held 1 false))).modifyChannel 1 ({ · with queue := List.replicate 23 (.void 3) })).channel 1).queue.length +
        (allIx.filter fun i => ((one (lease (.held 1 false))).modifyChannel 1 ({ · with queue := List.replicate 23 (.void 3) })).entryMeets
          (fun u => u.tag == 0x000123 && u.isHeld && u.owner == 1 && !u.contendedNotified) i).length = 24 ∧
      (((one (lease (.held 1 false))).modifyChannel 1 ({ · with queue := List.replicate 23 (.void 3) })).channel 1).deferral = [] := by
  decide +kernel

/-- A BACKOFF entry on the tag and none; a CENSUS with this station, with a duplicate, of 64 entries and of 63; a transit store
filled to 512 words and beyond. -/
theorem witness_PassingReleaseAndCensus :
    (one (lease (.backoff 2))).tenancy 5 = some (lease (.backoff 2)) ∧
      (∀ j u k, j ≠ 5 → (one (lease (.backoff 2))).tenancy j = some u → u.tag = 0x000123 → u.state ≠ .backoff k) ∧
      (∀ i t timer, ring.tenancy i = some t → t.tag = 0x000123 → t.state ≠ .backoff timer) ∧
      (⟨ring.config.settings.stationNumber, ring.identity⟩ : Member) ∈ [⟨7, 0xABCD1234⟩] ∧
      (⟨ring.config.settings.stationNumber, ring.identity⟩ : Member) ∉ List.replicate 63 (⟨9, 1⟩ : Member) ∧
      64 ≤ (List.replicate 64 (⟨9, 1⟩ : Member)).length ∧ (List.replicate 63 (⟨9, 1⟩ : Member)).length < 64 ∧
      (∃ m ∈ ([⟨7, 1⟩] : List Member), m.number = ring.config.settings.stationNumber ∧ m.identity ≠ ring.identity) ∧
      transitWords [List.replicate 505 0] + (withCrc [0, 0, 0, 0, 0, 0]).length = 512 ∧
      512 < transitWords [List.replicate 506 0] + (withCrc [0, 0, 0, 0, 0, 0]).length := by
  refine ⟨one_at _, fun j u k h g => absurd g (one_alone h), fun i t k h => ?_, by decide, by decide, by decide, by decide, by decide, by decide +kernel, by decide +kernel⟩
  rw [ring_tenancy] at h; cases h

/-! The ring line. -/

/-- A forwarded frame waits; a CLAIM, a RELEASE and a CENSUS in UP; a CENSUS behind a claim in DOWN; nothing sendable. -/
theorem witness_FrameBoundaryForwardsOriginatesOrFills :
    ring.line.mode = .inserted ∧ ring.line.transmitter = .idle 0 ∧
      (ring.modifyLine ({ · with transit := [[1]] })).line.transit = [[1]] ∧ ring.line.transit = [] ∧
      ring.station.state = .up ∧ ((one (lease (.claiming .queued true))).setSendList [.claim 5]).frames.sendList = [.claim 5] ∧
      (one (lease (.claiming .queued true))).tenancy 5 = some (lease (.claiming .queued true)) ∧
      (one { lease (.releasing .queued) with attached := false }).tenancy 5 =
        some { lease (.releasing .queued) with attached := false } ∧
      ((ringIn .down).setSendList [.claim 5, .census]).frames.sendList = [.claim 5] ++ .census :: [] ∧
      SendItem.census ∉ [SendItem.claim 5] ∧ (ringIn .down).station.state = .down ∧
      (ringIn .halted).station.state = .halted ∧ ring.frames.sendList = [] :=
  ⟨rfl, rfl, rfl, rfl, rfl, rfl, one_at _, one_at _, rfl, by decide, rfl, rfl, rfl⟩

/-- Every other mode than INSERTED; SILENT and PRESENT; between frames and in one, with 196 and 197 words in the store; waiting for the upstream signal. -/
theorem witness_ReceivedWordsMakeArrivals :
    ring.line.mode = .inserted ∧ ring.line.detector = .present 50 ∧
      (ring.modifyLine ({ · with detector := .silent })).line.detector = .silent ∧ LineWord.idle ≠ .violation ∧
      ((ringIn .joining).modifyStation ({ · with awaitsUpstream := true })).station.awaitsUpstream = true ∧
      (ringIn .joining).station.census = .none ∧ (ringIn .joining).station.state = .joining ∧ ring.line.receiver = .between ∧
      (ring.modifyLine ({ · with receiver := .inFrame (List.replicate 196 0) false false })).line.receiver =
        .inFrame (List.replicate 196 0) false false ∧ (List.replicate 196 (0 : Word)).length < 197 ∧
      197 ≤ (List.replicate 197 (0 : Word)).length ∧ ring.station.state = .up ∧ off.line.mode ≠ .inserted ∧
      (ring.modifyLine ({ · with mode := .settling 5000 })).line.mode ≠ .inserted ∧
      (ring.modifyLine ({ · with mode := .draining })).line.mode ≠ .inserted := by decide +kernel

/-- INSERTED with a frame and in the word time of its END, DRAINING, SETTLING, OFFLINE, and a timestamp at its top. -/
theorem witness_TransmitterRelayAndTimestamp :
    (ring.modifyLine ({ · with transmitter := .ended })).line.transmitter = .ended ∧
    ring.line.mode = .inserted ∧ (ring.modifyLine ({ · with transmitter := .sending [1] 3 })).line.transmitter = .sending [1] 3 ∧
      (ring.modifyLine ({ · with mode := .draining })).line.mode = .draining ∧
      (ring.modifyLine ({ · with mode := .settling 0 })).line.mode = .settling 0 ∧ off.station.state = .offline ∧
      ring.station.state ≠ .offline := by decide

/-! Timers. -/

/-- The three timers of the Station Controller running, with and without a census, scores 32 and 33, no loss and one. -/
theorem witness_StationTimersDriveTheCensus :
    (ring.modifyStation ({ · with holdOff := some 0 })).station.holdOff = some 0 ∧ ring.upstreamIsPresent = true ∧
      (ring.modifyLine ({ · with detector := .silent })).upstreamIsPresent = false ∧ ring.station.interval = some 100 ∧
      ring.station.census = .none ∧ (ring.modifyStation ({ · with census := .queued })).station.census ≠ .none ∧
      ring.station.state = .up ∧ (ringIn .down).station.state = .down ∧ (ringIn .joining).station.state = .joining ∧
      ((ringIn .down).modifyStation ({ · with faultScore := 32 })).station.faultScore ≤ 32 ∧
      32 < ((ringIn .down).modifyStation ({ · with faultScore := 33 })).station.faultScore ∧
      (ring.modifyStation ({ · with census := .inFlight 3 0 0 })).station.census = .inFlight 3 0 0 ∧
      ring.station.censusLosses = 0 ∧ (ring.modifyStation ({ · with censusLosses := 1 })).station.censusLosses = 1 := by
  decide +kernel

/-- Ticks to the margin of 10, to 11, to 0, and with margin 0; at 0: beside a holder, as the last one with a waiter, and without,
in UP and in DOWN. -/
theorem witness_TermTicksWarnAndExpire :
    (one (lease (.held (10 + 1) false))).tenancy 5 = some (lease (.held (10 + 1) false)) ∧
      ring.config.settings.warningMargin = 10 ∧ (lease (.held (10 + 1) false)).expiringNotified = false ∧
      (one (lease (.held 0 false))).tenancy 5 = some (lease (.held 0 false)) ∧ (one (lease (.held 0 false))).LastHolder 5 0x000123 ∧
      ¬ (two (shared (.held 0 false)) (other (shared (.held 1 false)))).LastHolder 5 0x000123 ∧
      ((two (lease (.held 0 false)) (other (lease .queuedLocal))).setWaiting [9]).waitList 0x000123 = [9] ∧
      (two (lease (.held 0 false)) (other (lease .queuedLocal))).tenancy 9 = some (other (lease .queuedLocal)) ∧
      (one (lease (.held 0 true))).waitList 0x000123 = [] ∧ ring.lease.taken = .up ∧ (ringIn .down).lease.taken ≠ .up :=
  ⟨one_at _, rfl, rfl, one_at _, one_lastHolder _, witness_ReleaseOfALease.2.1 ∘ fun h j t k g => by
      rcases two_tenancy.1 g with ⟨rfl, rfl⟩ | ⟨rfl, rfl⟩
      · exact absurd rfl k
      · exact h 9 _ (by decide) (two_tenancy.2 (.inr ⟨rfl, rfl⟩)),
    by decide +kernel, by decide +kernel, by decide +kernel, rfl, by decide⟩

theorem witness_EntryTimersRetryFailOrEnd :
    (one (lease (.backoff 0))).tenancy 5 = some (lease (.backoff 0)) ∧
      (one (lease (.claiming (.inFlight 4 0) true))).tenancy 5 = some (lease (.claiming (.inFlight 4 0) true)) ∧
      (lease (.claiming (.inFlight 4 0) true)).attempts < (lease (.claiming (.inFlight 4 0) true)).attemptLimit ∧
      ({ lease (.claiming (.inFlight 4 0) true) with attempts := 2 } : Tenancy).attemptLimit ≤ 2 ∧
      (one { lease (.claiming (.inFlight 4 0) true) with attached := false }).tenancy 5 =
        some { lease (.claiming (.inFlight 4 0) true) with attached := false } ∧
      (one { lease (.releasing (.inFlight 4 0)) with attached := false }).tenancy 5 =
        some { lease (.releasing (.inFlight 4 0)) with attached := false } :=
  ⟨one_at _, one_at _, by decide, by decide, one_at _, one_at _⟩

/-- A change to DOWN, alone and with a return to UP behind it, and to HALTED, with one CLAIMING entry; a change to UP; none. -/
theorem witness_LeaseTableTakesStationChanges :
    ((one (lease (.claiming .queued false))).setChanges [.down]).lease.changes = [.down] ∧
      ((one (lease (.claiming .queued false))).setChanges [.halted]).lease.changes = [.halted] ∧
      ([] : List StationState).head? ≠ some .up ∧
      ((one (lease (.claiming .queued false))).setChanges [.down, .up]).lease.changes = .down :: .up :: [] ∧
      (one (lease (.claiming .queued false))).tenancy 5 = some (lease (.claiming .queued false)) ∧
      (lease (.claiming .queued false)).blocks = true ∧
      (∀ phase, (lease (.claiming .queued false)).state ≠ .releasing phase) ∧
      (∀ j v, j ≠ 5 → (one (lease (.claiming .queued false))).tenancy j = some v → v.blocks = false) ∧
      (one (lease (.claiming .queued false))).waitList 0x000123 = [] ∧ (ring.setChanges [.up]).lease.changes = [.up] ∧
      ring.lease.changes = [] :=
  ⟨rfl, rfl, by decide, rfl, one_at _, rfl, fun _ => by simp [lease], fun j v h k => absurd k (one_alone h), rfl, rfl, rfl⟩

end Sys2Proof.Machine.Tests
end

namespace Sys2Proof.Machine

/-! ### Notices that wait, and markers, in a deferral list (R133) -/

@[simp] theorem DeferralItem.isMarker_marker (set : Suppressed) : (DeferralItem.marker set).isMarker = true := rfl

@[simp] theorem DeferralItem.isMarker_entry (i : EntryIx) : (DeferralItem.entry i).isMarker = false := rfl

@[simp] theorem DeferralItem.isMarker_addClass (cls : EventClass) (x : DeferralItem) :
    (x.addClass cls).isMarker = x.isMarker := by cases x <;> rfl

theorem DeferralItem.addClass_of_not_isMarker {cls : EventClass} {x : DeferralItem} (h : x.isMarker = false) :
    x.addClass cls = x := by
  cases x with
  | marker set => cases h
  | entry i => rfl

/-- The entry items of a deferral list: the notices that wait in slots. -/
def ChannelState.notices (c : ChannelState) : List DeferralItem := c.deferral.filter fun x => !x.isMarker

/-- The deferral list holds the summary marker at most once. -/
def ChannelState.OneMarker (c : ChannelState) : Prop := (c.deferral.filter DeferralItem.isMarker).length ≤ 1

theorem ChannelState.mem_notices {c : ChannelState} {i : EntryIx} :
    DeferralItem.entry i ∈ c.notices ↔ DeferralItem.entry i ∈ c.deferral := by
  simp [ChannelState.notices]

/-- A change of a channel that touches no notice of its deferral list and adds no second marker. -/
def ChannelState.KeepsNotices (c d : ChannelState) : Prop := d.notices = c.notices ∧ (c.OneMarker → d.OneMarker)

theorem ChannelState.keepsNotices_of_deferral {c d : ChannelState} (h : d.deferral = c.deferral) : c.KeepsNotices d := by
  simp [ChannelState.KeepsNotices, ChannelState.notices, ChannelState.OneMarker, h]

/-- A suppressed event changes the marker, or adds the one that was not there (R136). -/
theorem ChannelState.suppress_keepsNotices (c : ChannelState) (cls : EventClass) : c.KeepsNotices (c.suppress cls) := by
  unfold ChannelState.suppress
  split
  · have filtered (l : List DeferralItem) :
        (l.map (DeferralItem.addClass cls)).filter (fun x => !x.isMarker) = l.filter (fun x => !x.isMarker) ∧
        ((l.map (DeferralItem.addClass cls)).filter DeferralItem.isMarker).length =
          (l.filter DeferralItem.isMarker).length := by
      induction l with
      | nil => simp
      | cons x l ih =>
        cases hx : x.isMarker
        · simp [hx, ih, DeferralItem.addClass_of_not_isMarker hx]
        · simp [hx, ih]
    exact ⟨(filtered c.deferral).1, fun h => (filtered c.deferral).2.trans_le h⟩
  · next none =>
    have empty : c.deferral.filter DeferralItem.isMarker = [] := by simpa using none
    simp [ChannelState.KeepsNotices, ChannelState.notices, ChannelState.OneMarker, ChannelState.defer, empty,
      List.filter_singleton]

theorem ChannelState.raise_keepsNotices (c : ChannelState) (cls : EventClass) (r : EventRecord) :
    c.KeepsNotices (c.raise cls r) := by
  unfold ChannelState.raise
  split
  · exact ChannelState.keepsNotices_of_deferral rfl
  · exact c.suppress_keepsNotices cls

/-- A slot of this channel holds a notice at this entry. -/
def Tenancy.NoticeFor (c : Channel) (t : Tenancy) : Prop := t.owner = c ∧ t.deferred ≠ none

theorem State.deferralExact_iff (s : State) : s.DeferralExact ↔
    (∀ c, (s.channel c).notices.Nodup ∧ (s.channel c).OneMarker ∧
      ∀ i, DeferralItem.entry i ∈ (s.channel c).notices ↔ ∃ t, s.tenancy i = some t ∧ t.NoticeFor c) ∧
    ∀ i t, s.tenancy i = some t → t.state = .closing → t.deferred ≠ none := by
  simp only [ChannelState.mem_notices]; exact .rfl

/-! ### What the blocks do to the tenancies, said of the invariants -/

/-- Every backoff and circuit timer of an entry lies in its range (R11, R38). -/
def State.EntryTimers (s : State) : Prop := ∀ i t, s.tenancy i = some t → t.state.TimerInRange

/-- What a change of tenancies keeps, whatever the tags are held by: the configuration and the owners, and each invariant of
the Lease Table that holds of the entries one by one or of the lists that name them. -/
structure State.TableKept (s t : State) : Prop where
  config : t.config = s.config
  owners : ∀ i u, t.tenancy i = some u → ∃ v, s.tenancy i = some v ∧ u.owner = v.owner
  wait : s.WaitListsExact → t.WaitListsExact
  defer : s.DeferralExact → t.DeferralExact
  attach : s.AttachmentLaw → t.AttachmentLaw
  range : s.EntriesInRange → t.EntriesInRange
  timers : s.SettingsInRange → s.EntryTimers → t.EntryTimers

/-- A change of tenancies that also keeps two conflicting entries off one tag. -/
structure State.LeaseKept (s t : State) : Prop extends s.TableKept t where
  exclusive : s.Exclusive → t.Exclusive

theorem State.TableKept.refl (s : State) : s.TableKept s where
  config := rfl
  owners := fun _ u h => ⟨u, h, rfl⟩
  wait := id
  defer := id
  attach := id
  range := id
  timers := fun _ h => h

theorem State.TableKept.trans {s t u : State} (h : s.TableKept t) (k : t.TableKept u) : s.TableKept u where
  config := k.config.trans h.config
  owners := fun i w hw => by
    obtain ⟨v, hv, e⟩ := k.owners i w hw
    obtain ⟨v', hv', e'⟩ := h.owners i v hv
    exact ⟨v', hv', e.trans e'⟩
  wait := fun x => k.wait (h.wait x)
  defer := fun x => k.defer (h.defer x)
  attach := fun x => k.attach (h.attach x)
  range := fun x => k.range (h.range x)
  timers := fun c x => k.timers (by rwa [State.SettingsInRange, h.config]) (h.timers c x)

theorem State.LeaseKept.refl (s : State) : s.LeaseKept s := ⟨.refl s, id⟩

theorem State.LeaseKept.trans {s t u : State} (h : s.LeaseKept t) (k : t.LeaseKept u) : s.LeaseKept u :=
  ⟨h.toTableKept.trans k.toTableKept, fun x => k.exclusive (h.exclusive x)⟩

/-- Where every tenancy and the wait lists stand as before, only the deferral lists are to be looked at. -/
theorem State.leaseKept_of_lists {s t : State} (config : t.config = s.config)
    (tenancies : ∀ i, t.tenancy i = s.tenancy i) (waiting : t.lease.waiting = s.lease.waiting)
    (defer : s.DeferralExact → t.DeferralExact) : s.LeaseKept t where
  config := config
  owners := fun i u h => ⟨u, by rwa [tenancies] at h, rfl⟩
  wait := by simp only [State.WaitListsExact, waiting, tenancies]; exact id
  defer := defer
  attach := by simp only [State.AttachmentLaw, tenancies]; exact id
  range := by simp only [State.EntriesInRange, tenancies, State.limits, config]; exact id
  timers := fun _ => by simp only [State.EntryTimers, tenancies]; exact id
  exclusive := by simp only [State.Exclusive, tenancies]; exact id

/-- Where moreover no notice is touched, every invariant is kept. -/
theorem State.leaseKept_of_same {s t : State} (config : t.config = s.config)
    (tenancies : ∀ i, t.tenancy i = s.tenancy i) (waiting : t.lease.waiting = s.lease.waiting)
    (channels : ∀ c, (s.channel c).KeepsNotices (t.channel c)) : s.LeaseKept t :=
  State.leaseKept_of_lists config tenancies waiting <| by
    simp only [State.deferralExact_iff, tenancies, (channels _).1]
    exact fun ⟨h, k⟩ => ⟨fun c => ⟨(h c).1, (channels c).2 (h c).2.1, (h c).2.2⟩, k⟩

theorem State.leaseKept_modifyChannel (s : State) (c : Channel) (f : ChannelState → ChannelState)
    (hf : (s.channel c).KeepsNotices (f (s.channel c))) : s.LeaseKept (s.modifyChannel c f) :=
  State.leaseKept_of_same rfl (fun _ => rfl) rfl fun d => by
    rw [State.modifyChannel_channel]; split
    · next h => subst h; exact hf
    · exact ChannelState.keepsNotices_of_deferral rfl

/-! ### One entry at a time -/

/-- One entry goes from a tenancy to another or to FREE; the other entries and the configuration stay. -/
structure State.Turns (s t : State) (i : EntryIx) (v : Tenancy) (x : Option Tenancy) : Prop where
  before : s.tenancy i = some v
  after : t.tenancy i = x
  others : ∀ j, j ≠ i → t.tenancy j = s.tenancy j
  config : t.config = s.config

/-- What a step may make of a tenancy: owner, tag and mode stay, attachment is given up at most and goes on following the
state, and the fields and timers stay in the ranges that the configuration gives. -/
structure Tenancy.Follows (config : ConfigStore) (v u : Tenancy) : Prop where
  owner : u.owner = v.owner
  tag : u.tag = v.tag
  mode : u.mode = v.mode
  attached : u.attached = true → v.attached = true
  attachment : v.AttachmentFollows → u.AttachmentFollows
  range : v.InRange (config.limits.get v.owner) → u.InRange (config.limits.get v.owner)
  timer : config.settings.inRange = true → v.state.TimerInRange → u.state.TimerInRange

theorem Tenancy.Follows.refl (config : ConfigStore) (v : Tenancy) : v.Follows config v :=
  ⟨rfl, rfl, rfl, id, id, id, fun _ => id⟩

theorem State.Turns.wait {s t : State} {i : EntryIx} {v : Tenancy} {x : Option Tenancy} (h : s.Turns t i v x)
    (nodup : s.lease.waiting.Nodup → t.lease.waiting.Nodup)
    (others : ∀ j, j ≠ i → (j ∈ t.lease.waiting ↔ j ∈ s.lease.waiting))
    (here : s.WaitListsExact → (i ∈ t.lease.waiting ↔ ∃ u, x = some u ∧ u.state = .queuedLocal)) :
    s.WaitListsExact → t.WaitListsExact := fun e => by
  refine ⟨nodup e.1, fun j => ?_⟩
  by_cases ej : j = i
  · subst ej; rw [here e, h.after]
  · rw [others j ej, h.others j ej, e.2 j]

/-- The entry leaves the wait lists and does not wait. -/
theorem State.Turns.wait_leaves {s t : State} {i : EntryIx} {v : Tenancy} {x : Option Tenancy} (h : s.Turns t i v x)
    (hw : t.lease.waiting = s.lease.waiting.filter (· != i)) (hx : ∀ u, x = some u → u.state ≠ .queuedLocal) :
    s.WaitListsExact → t.WaitListsExact :=
  h.wait (fun n => hw ▸ n.filter _) (fun j hj => by simp [hw, hj])
    fun _ => by simp only [hw, List.mem_filter, bne_self_eq_false, Bool.false_eq_true, and_false, false_iff]
                rintro ⟨u, hu, q⟩; exact hx u hu q

/-- The wait lists stay, and the entry waits or does not wait as before. -/
theorem State.Turns.wait_stays {s t : State} {i : EntryIx} {v : Tenancy} {x : Option Tenancy} (h : s.Turns t i v x)
    (hw : t.lease.waiting = s.lease.waiting)
    (hx : (∃ u, x = some u ∧ u.state = .queuedLocal) ↔ v.state = .queuedLocal) :
    s.WaitListsExact → t.WaitListsExact :=
  h.wait (fun n => hw ▸ n) (fun j _ => by rw [hw]) fun e => by rw [hw, e.2 i, hx]; simp [h.before]

theorem State.Turns.defer {s t : State} {i : EntryIx} {v : Tenancy} {x : Option Tenancy} (h : s.Turns t i v x)
    (channels : ∀ c, (s.channel c).KeepsNotices (t.channel c))
    (slot : ∀ c, (∃ u, x = some u ∧ u.NoticeFor c) ↔ v.NoticeFor c)
    (closing : s.DeferralExact → ∀ u, x = some u → u.state = .closing → u.deferred ≠ none) :
    s.DeferralExact → t.DeferralExact := fun e => by
  have close := closing e
  rw [State.deferralExact_iff] at e ⊢
  refine ⟨fun c => ⟨(channels c).1 ▸ (e.1 c).1, (channels c).2 (e.1 c).2.1, fun j => ?_⟩, fun j u hu hs => ?_⟩
  · rw [(channels c).1, (e.1 c).2.2 j]
    by_cases ej : j = i
    · subst ej; rw [h.after, slot c]; simp [h.before]
    · rw [h.others j ej]
  · by_cases ej : j = i
    · subst ej; rw [h.after] at hu; exact close u hu hs
    · rw [h.others j ej] at hu; exact e.2 j u hu hs

/-- One entry that turns into what may follow keeps every invariant of the table for which the lists say so. -/
theorem State.Turns.kept {s t : State} {i : EntryIx} {v : Tenancy} {x : Option Tenancy} (h : s.Turns t i v x)
    (follows : ∀ u, x = some u → v.Follows s.config u)
    (wait : s.WaitListsExact → t.WaitListsExact) (defer : s.DeferralExact → t.DeferralExact) : s.TableKept t where
  config := h.config
  owners := fun j u hu => by
    by_cases e : j = i
    · subst e; rw [h.after] at hu; exact ⟨v, h.before, (follows u hu).owner⟩
    · rw [h.others j e] at hu; exact ⟨u, hu, rfl⟩
  wait := wait
  defer := defer
  attach := fun law => by
    have old (j : EntryIx) (u : Tenancy) (hu : t.tenancy j = some u) : ∃ w, s.tenancy j = some w ∧ u.owner = w.owner ∧
        u.tag = w.tag ∧ (u.attached = true → w.attached = true) ∧ (w.AttachmentFollows → u.AttachmentFollows) := by
      by_cases e : j = i
      · subst e; rw [h.after] at hu
        exact ⟨v, h.before, (follows u hu).owner, (follows u hu).tag, (follows u hu).attached, (follows u hu).attachment⟩
      · rw [h.others j e] at hu; exact ⟨u, hu, rfl, rfl, id, id⟩
    refine ⟨fun j u hu => ?_, fun j k u w hjk hu hw au aw ho => ?_⟩
    · obtain ⟨u', hu', -, -, -, f⟩ := old j u hu
      exact f (law.1 j u' hu')
    · obtain ⟨u', hu', ou, gu, au', -⟩ := old j u hu
      obtain ⟨w', hw', ow, gw, aw', -⟩ := old k w hw
      rw [gu, gw]
      exact law.2 j k u' w' hjk hu' hw' (au' au) (aw' aw) (by rw [← ou, ← ow, ho])
  range := fun r j u hu => by
    simp only [State.limits, h.config]
    by_cases e : j = i
    · subst e; rw [h.after] at hu
      rw [(follows u hu).owner]; exact (follows u hu).range (r j v h.before)
    · rw [h.others j e] at hu; exact r j u hu
  timers := fun c r j u hu => by
    by_cases e : j = i
    · subst e; rw [h.after] at hu; exact (follows u hu).timer c (r j v h.before)
    · rw [h.others j e] at hu; exact r j u hu

/-- No entry but this one is active on the tag. -/
def State.ClearBut (s : State) (i : EntryIx) (tag : Tag) : Prop :=
  ∀ j u, j ≠ i → s.tenancy j = some u → u.tag = tag → u.isActive = false

/-- What the turned entry must be beside the other active entries of its tag for the tag to stay exclusive. -/
theorem State.Turns.exclusive {s t : State} {i : EntryIx} {v : Tenancy} {x : Option Tenancy} (h : s.Turns t i v x)
    (beside : s.Exclusive → ∀ u, x = some u → u.isActive = true → ∀ j w, j ≠ i → s.tenancy j = some w → w.tag = u.tag →
      w.isActive = true → u.isHeld = true ∧ u.mode = .shared ∧ w.isHeld = true ∧ w.mode = .shared) :
    s.Exclusive → t.Exclusive := fun e j k u w hjk hu hw hg au aw => by
  by_cases ej : j = i
  · subst ej
    rw [h.after] at hu; rw [h.others k hjk.symm] at hw
    obtain ⟨a, b, c, d⟩ := beside e u hu au k w hjk.symm hw hg.symm aw
    exact ⟨a, c, b, d⟩
  · rw [h.others j ej] at hu
    by_cases ek : k = i
    · subst ek
      rw [h.after] at hw
      obtain ⟨a, b, c, d⟩ := beside e w hw aw j u hjk hu hg au
      exact ⟨c, a, d, b⟩
    · rw [h.others k ek] at hw
      exact e j k u w hjk hu hw hg au aw

/-- An entry that stays active on its tag, and HELD where it was HELD, keeps the tag exclusive; so does one that becomes
inactive. -/
theorem State.Turns.exclusive_stays {s t : State} {i : EntryIx} {v : Tenancy} {x : Option Tenancy} (h : s.Turns t i v x)
    (stays : ∀ u, x = some u → u.isActive = true →
      v.isActive = true ∧ u.tag = v.tag ∧ u.mode = v.mode ∧ (v.isHeld = true → u.isHeld = true)) :
    s.Exclusive → t.Exclusive :=
  h.exclusive fun e u hu au j w hj hw hg aw => by
    obtain ⟨av, gv, mv, held⟩ := stays u hu au
    obtain ⟨a, b, c, d⟩ := e i j v w hj.symm h.before hw (gv ▸ hg.symm) av aw
    exact ⟨held a, mv.trans c, b, d⟩

/-- An entry may become anything on a tag where no other is active. -/
theorem State.Turns.exclusive_clear {s t : State} {i : EntryIx} {v : Tenancy} {x : Option Tenancy} (h : s.Turns t i v x)
    (clear : s.Exclusive → ∀ u, x = some u → s.ClearBut i u.tag) : s.Exclusive → t.Exclusive :=
  h.exclusive fun e u hu _ j w hj hw hg aw => by simp [clear e u hu j w hj hw hg] at aw

end Sys2Proof.Machine

namespace Sys2Proof.Machine

/-! ### What may follow a tenancy -/

/-- The slot belongs to no range and to no law of attachment. -/
theorem Tenancy.Follows.slot (config : ConfigStore) (v : Tenancy) (d : Option LeaseNotice) :
    v.Follows config { v with deferred := d } := ⟨rfl, rfl, rfl, id, id, id, fun _ => id⟩

/-- A CLOSING entry keeps every field and asks nothing of its attachment. -/
theorem Tenancy.Follows.closing (config : ConfigStore) (v : Tenancy) : v.Follows config { v with state := .closing } where
  owner := rfl
  tag := rfl
  mode := rfl
  attached := id
  attachment := fun _ => trivial
  range := fun ⟨h1, h2, h3, h4, h5, h6, _⟩ => ⟨h1, h2, h3, h4, h5, h6, trivial⟩
  timer := fun _ _ => trivial

theorem Tenancy.Follows.trans {config : ConfigStore} {v u w : Tenancy} (h : v.Follows config u) (k : u.Follows config w) :
    v.Follows config w where
  owner := k.owner.trans h.owner
  tag := k.tag.trans h.tag
  mode := k.mode.trans h.mode
  attached := fun a => h.attached (k.attached a)
  attachment := fun a => k.attachment (h.attachment a)
  range := fun a => by have := k.range; rw [h.owner] at this; exact this (h.range a)
  timer := fun c a => k.timer c (h.timer c a)

/-- An attached entry may become HELD for its term (R6). -/
theorem Tenancy.Follows.enterHeld (config : ConfigStore) {v : Tenancy} (ha : v.AttachmentFollows → v.attached = true) :
    v.Follows config v.enterHeld where
  owner := rfl
  tag := rfl
  mode := rfl
  attached := id
  attachment := ha
  range := fun ⟨h1, h2, h3, h4, h5, h6, _⟩ => ⟨h1, h2, h3, h4, h5, h6, Nat.le_refl _⟩
  timer := fun _ _ => trivial

/-- An attached entry with an attempt left may become CLAIMING with its frame queued (R6). -/
theorem Tenancy.Follows.claimingQueued (config : ConfigStore) {v : Tenancy} (ha : v.AttachmentFollows → v.attached = true)
    (hr : ∀ l, v.InRange l → v.attempts < v.attemptLimit) (lost : Bool) :
    v.Follows config { v with state := .claiming .queued lost } where
  owner := rfl
  tag := rfl
  mode := rfl
  attached := id
  attachment := ha
  range := fun h => by have left := hr _ h; obtain ⟨h1, h2, h3, h4, h5, h6, -⟩ := h; exact ⟨h1, h2, h3, h4, h5, h6, left⟩
  timer := fun _ _ => trivial

theorem Tenancy.attached_of_waits {v : Tenancy} (h : v.state = .queuedLocal) : v.AttachmentFollows → v.attached = true := by
  simp [Tenancy.AttachmentFollows, h]

theorem Tenancy.attached_of_backoff {v : Tenancy} {timer : Nat} (h : v.state = .backoff timer) :
    v.AttachmentFollows → v.attached = true := by simp [Tenancy.AttachmentFollows, h]

theorem Tenancy.attemptLeft_of_waits {v : Tenancy} (h : v.state = .queuedLocal) (l : Limits) (r : v.InRange l) :
    v.attempts < v.attemptLimit := by
  obtain ⟨-, one, -, -, -, -, zero⟩ := r
  rw [h] at zero; simp only at zero; omega

theorem Tenancy.attemptLeft_of_backoff {v : Tenancy} {timer : Nat} (h : v.state = .backoff timer) (l : Limits)
    (r : v.InRange l) : v.attempts < v.attemptLimit := by
  obtain ⟨-, -, -, -, -, -, left⟩ := r
  rw [h] at left; exact left

theorem Tenancy.isQueued_iff {v : Tenancy} : v.isQueued = true ↔ v.state = .queuedLocal := by
  cases h : v.state <;> simp [Tenancy.isQueued, EntryState.name, h]

theorem Tenancy.isHeld_iff {v : Tenancy} : v.isHeld = true ↔ ∃ remaining demand, v.state = .held remaining demand := by
  cases h : v.state <;> simp [Tenancy.isHeld, EntryState.name, h]

/-! ### Turns -/

theorem State.turns_modifyTenancy {s : State} {i : EntryIx} {v : Tenancy} (h : s.tenancy i = some v)
    (f : Tenancy → Tenancy) : s.Turns (s.modifyTenancy i f) i v (some (f v)) :=
  ⟨h, by simp [h], fun j hj => by simp [State.modifyTenancy_tenancy, Ne.symm hj], rfl⟩

/-- A turn says nothing of the lists: it holds of every state with the same tenancies. -/
theorem State.Turns.congr {s t u : State} {i : EntryIx} {v : Tenancy} {x : Option Tenancy} (h : s.Turns t i v x)
    (tenancies : ∀ j, u.tenancy j = t.tenancy j) (config : u.config = t.config) : s.Turns u i v x :=
  ⟨h.before, (tenancies i).trans h.after, fun j hj => (tenancies j).trans (h.others j hj), config.trans h.config⟩

theorem State.Turns.trans {s t u : State} {i : EntryIx} {v w : Tenancy} {x : Option Tenancy} (h : s.Turns t i v (some w))
    (k : t.Turns u i w x) : s.Turns u i v x :=
  ⟨h.before, k.after, fun j hj => (k.others j hj).trans (h.others j hj), k.config.trans h.config⟩

/-- What the end of a tenancy leaves of it (R9). -/
def Tenancy.ended (v : Tenancy) : Option Tenancy := if v.deferred = none then none else some { v with state := .closing }

theorem Tenancy.ended_eq_some {v u : Tenancy} (h : v.ended = some u) : u = { v with state := .closing } ∧ v.deferred ≠ none := by
  unfold Tenancy.ended at h
  split at h
  · cases h
  · next d => exact ⟨(Option.some.inj h).symm, d⟩

theorem State.turns_endTenancy {s : State} {i : EntryIx} {v : Tenancy} (h : s.tenancy i = some v) :
    s.Turns (s.endTenancy i) i v v.ended :=
  ⟨h, by rw [State.endTenancy_tenancy, if_pos rfl, h]; rfl, fun j hj => by rw [State.endTenancy_tenancy, if_neg hj],
    (s.endTenancy_work i).config⟩

/-- A turn that leaves channels and slot alone keeps the deferral lists exact. -/
theorem State.Turns.defer_slot {s t : State} {i : EntryIx} {v u : Tenancy} (h : s.Turns t i v (some u))
    (channels : t.channels = s.channels) (owner : u.owner = v.owner) (slot : u.deferred = v.deferred)
    (open_ : u.state ≠ .closing) : s.DeferralExact → t.DeferralExact :=
  h.defer (fun c => ChannelState.keepsNotices_of_deferral (by simp [State.channel, channels]))
    (fun c => by simp [Tenancy.NoticeFor, owner, slot])
    fun _ w hw hs => absurd (Option.some.inj hw ▸ hs) open_

/-- An entry that does not wait afterwards, its slot untouched, and that has left the wait lists. -/
theorem State.Turns.kept_leaves {s t : State} {i : EntryIx} {v u : Tenancy} (h : s.Turns t i v (some u))
    (follows : v.Follows s.config u) (slot : u.deferred = v.deferred)
    (open_ : u.state ≠ .closing) (runs : u.state ≠ .queuedLocal) (channels : t.channels = s.channels)
    (waiting : t.lease.waiting = s.lease.waiting.filter (· != i)) : s.TableKept t :=
  h.kept (fun _ e => Option.some.inj e ▸ follows) (h.wait_leaves waiting fun _ e => Option.some.inj e ▸ runs)
    (h.defer_slot channels follows.owner slot open_)

/-- An entry that does not wait, before and afterwards, its slot untouched. -/
theorem State.Turns.kept_stays {s t : State} {i : EntryIx} {v u : Tenancy} (h : s.Turns t i v (some u))
    (follows : v.Follows s.config u) (slot : u.deferred = v.deferred)
    (open_ : u.state ≠ .closing) (ran : v.state ≠ .queuedLocal) (runs : u.state ≠ .queuedLocal)
    (channels : t.channels = s.channels) (waiting : t.lease.waiting = s.lease.waiting) : s.TableKept t :=
  h.kept (fun _ e => Option.some.inj e ▸ follows) (h.wait_stays waiting (by simp [ran, runs]))
    (h.defer_slot channels follows.owner slot open_)

/-! ### Notices -/

/-- A notice raised keeps every invariant: it joins a queue, or it takes its place in slot and deferral list, or it is
combined with the one in the slot (R132 to R134). -/
theorem State.raiseLease_kept (s : State) (i : EntryIx) (kind : LeaseKind) (marks : Marks) :
    s.LeaseKept (s.raiseLease i kind marks) := by
  unfold State.raiseLease
  split
  · exact .refl s
  · next v h =>
    have follows (d : Option LeaseNotice) : ∀ u, some { v with deferred := d } = some u → v.Follows s.config u :=
      fun u e => Option.some.inj e ▸ .slot _ v d
    have exclusive {t : State} {d : Option LeaseNotice} (turns : s.Turns t i v (some { v with deferred := d })) :
        s.Exclusive → t.Exclusive :=
      turns.exclusive_stays fun u e a => by obtain rfl := Option.some.inj e; exact ⟨a, rfl, rfl, id⟩
    split
    · exact s.leaseKept_modifyChannel _ _ (ChannelState.keepsNotices_of_deferral rfl)
    · split
      · next d =>
        have turns := (State.turns_modifyTenancy h ({ · with deferred := some (s.noticeOf i v kind marks) })).congr
          (u := (s.modifyTenancy i ({ · with deferred := some (s.noticeOf i v kind marks) })).modifyChannel v.owner
            (·.defer (.entry i))) (fun _ => rfl) rfl
        refine ⟨turns.kept (follows _) (turns.wait_stays rfl (by simp)) fun e => ?_, exclusive turns⟩
        rw [State.deferralExact_iff] at e ⊢
        have absent : DeferralItem.entry i ∉ (s.channel v.owner).notices := fun m => by
          obtain ⟨t, ht, -, slot⟩ := ((e.1 v.owner).2.2 i).1 m
          rw [h] at ht; exact slot (Option.some.inj ht ▸ d)
        have list (c : ChannelState) : (c.defer (.entry i)).notices = c.notices ++ [.entry i] := by
          simp [ChannelState.notices, ChannelState.defer, List.filter_append]
        have marker (c : ChannelState) (one : c.OneMarker) : (c.defer (.entry i)).OneMarker := by
          simpa [ChannelState.OneMarker, ChannelState.defer, List.filter_append, List.filter_singleton] using one
        refine ⟨fun c => ?_, fun j u hu hs => ?_⟩
        · simp only [State.modifyChannel_channel, State.modifyTenancy_channel, State.modifyChannel_tenancy]
          by_cases ec : v.owner = c
          · subst ec
            refine ⟨?_, by rw [if_pos rfl]; exact marker _ (e.1 _).2.1, fun j => ?_⟩
            · rw [if_pos rfl, list]
              exact (e.1 _).1.append (List.nodup_singleton _) (by simpa using absent)
            · rw [if_pos rfl, list, List.mem_append, (e.1 _).2.2 j]
              by_cases ej : j = i
              · subst ej; simp [h, Tenancy.NoticeFor]
              · simp [State.modifyTenancy_tenancy, Ne.symm ej, ej]
          · rw [if_neg ec]
            refine ⟨(e.1 c).1, (e.1 c).2.1, fun j => ((e.1 c).2.2 j).trans ?_⟩
            by_cases ej : j = i
            · subst ej; simp [h, Tenancy.NoticeFor, ec]
            · simp [State.modifyTenancy_tenancy, Ne.symm ej]
        · by_cases ej : j = i
          · subst ej
            rw [turns.after] at hu; obtain rfl := Option.some.inj hu; simp
          · rw [turns.others j ej] at hu; exact e.2 j u hu hs
      · next held d =>
        have turns := State.turns_modifyTenancy h ({ · with deferred := some (held.combine (s.noticeOf i v kind marks)) })
        refine ⟨turns.kept (follows _) (turns.wait_stays rfl (by simp)) ?_, exclusive turns⟩
        exact turns.defer (fun _ => ChannelState.keepsNotices_of_deferral rfl) (fun c => by simp [Tenancy.NoticeFor, d])
          fun _ u e _ => by obtain rfl := Option.some.inj e; simp

/-! ### The end of a tenancy -/

/-- An ended tenancy keeps every invariant: its entry stands no longer in the lists that it leaves, and one with a notice in
its slot becomes CLOSING, one without becomes FREE (R9). -/
theorem State.endTenancy_kept {s : State} {i : EntryIx} {v : Tenancy} (h : s.tenancy i = some v) :
    s.LeaseKept (s.endTenancy i) := by
  have turns := State.turns_endTenancy h
  refine ⟨turns.kept (fun u e => ?_) (turns.wait_leaves (s.endTenancy_waiting i) fun u e => ?_) ?_,
    turns.exclusive_stays fun u e a => ?_⟩
  · rw [(Tenancy.ended_eq_some e).1]; exact .closing _ v
  · rw [(Tenancy.ended_eq_some e).1]; simp
  · refine turns.defer (fun c => ChannelState.keepsNotices_of_deferral (by simp [State.channel])) (fun c => ?_)
      fun _ u e _ => ?_
    · by_cases d : v.deferred = none
      · simp [Tenancy.ended, d, Tenancy.NoticeFor]
      · simp [Tenancy.ended, d, Tenancy.NoticeFor]
    · rw [(Tenancy.ended_eq_some e).1]; exact (Tenancy.ended_eq_some e).2
  · rw [(Tenancy.ended_eq_some e).1] at a; simp [Tenancy.isActive, Tenancy.isHeld, Tenancy.blocks, EntryState.name] at a

theorem State.deny_kept (s : State) (i : EntryIx) (cause : DenyCause) (objector : Option StationNo) :
    s.LeaseKept (s.deny i cause objector) := by
  unfold State.deny
  split
  · exact .refl s
  · next v h =>
    obtain ⟨d, hd, -⟩ := s.raiseLease_tenancy i i (.denied cause objector v.attempts) {}
    exact (s.raiseLease_kept _ _ _).trans (State.endTenancy_kept (hd.trans (by rw [h]; rfl)))

/-! ### Leaving the wait lists -/

theorem State.raiseLease_setWaiting (s : State) (w : List EntryIx) (i : EntryIx) (kind : LeaseKind) (marks : Marks) :
    (s.setWaiting w).raiseLease i kind marks = (s.raiseLease i kind marks).setWaiting w := by
  cases h : s.tenancy i with
  | none => simp only [State.raiseLease, State.setWaiting_tenancy, h]
  | some v =>
    by_cases room : (s.channel v.owner).hasRoom = true
    · simp only [State.raiseLease, State.setWaiting_tenancy, State.setWaiting_channel, h, room, if_true]; rfl
    · cases d : v.deferred <;>
        simp only [State.raiseLease, State.setWaiting_tenancy, State.setWaiting_channel, h, room, d] <;> rfl

theorem State.endTenancy_leaveWaiting (s : State) (i : EntryIx) : (s.leaveWaiting i).endTenancy i = s.endTenancy i := by
  have lists : ((s.leaveWaiting i).dropItem i).leaveWaiting i = (s.dropItem i).leaveWaiting i := by
    simp [State.leaveWaiting, State.dropItem, State.setWaiting, State.setSendList]
  unfold State.endTenancy
  rw [lists]; rfl

/-- A denial ends the tenancy, which takes the entry out of the wait lists anyhow. -/
theorem State.deny_leaveWaiting {s : State} {i : EntryIx} {v : Tenancy} (h : s.tenancy i = some v) (cause : DenyCause)
    (objector : Option StationNo) : (s.leaveWaiting i).deny i cause objector = s.deny i cause objector := by
  have tenancy : (s.leaveWaiting i).tenancy i = some v := h
  have waiting : (s.leaveWaiting i).raiseLease i (.denied cause objector v.attempts) {} =
      (s.raiseLease i (.denied cause objector v.attempts) {}).leaveWaiting i := by
    simp [State.leaveWaiting, State.raiseLease_setWaiting]
  simp only [State.deny, tenancy, h, waiting, State.endTenancy_leaveWaiting]

end Sys2Proof.Machine

namespace Sys2Proof.Machine

/-! ### Entries that become HELD (R6, R19, R22, R36, R58) -/

/-- The tenancy may become HELD beside the other active entries of its tag: it is SHARED and they are SHARED holders (R1, R14). -/
def State.MayHold (s : State) (i : EntryIx) (v : Tenancy) : Prop :=
  ∀ j w, j ≠ i → s.tenancy j = some w → w.tag = v.tag → w.isActive = true →
    v.mode = .shared ∧ w.isHeld = true ∧ w.mode = .shared

theorem State.ClearBut.mayHold {s : State} {i : EntryIx} {v : Tenancy} (h : s.ClearBut i v.tag) : s.MayHold i v :=
  fun j w hj hw hg a => by simp [h j w hj hw hg] at a

theorem State.Turns.exclusive_holds {s t : State} {i : EntryIx} {v u : Tenancy} (h : s.Turns t i v (some u))
    (tag : u.tag = v.tag) (mode : u.mode = v.mode) (held : u.isHeld = true) (may : s.Exclusive → s.MayHold i v) :
    s.Exclusive → t.Exclusive :=
  h.exclusive fun e w hw _ j x hj hx hg a => by
    obtain rfl := Option.some.inj hw
    obtain ⟨m, xh, xm⟩ := may e j x hj hx (hg.trans tag) a
    exact ⟨held, mode.trans m, xh, xm⟩

/-- A waiting entry granted: it leaves the wait lists and is HELD, and GRANTED is raised. -/
theorem State.grant_waiter_table {s : State} {i : EntryIx} {v : Tenancy} (h : s.tenancy i = some v)
    (waits : v.state = .queuedLocal) (handedOn : Bool) : s.TableKept ((s.leaveWaiting i).grant i handedOn) := by
  have turns := State.turns_modifyTenancy (s := s.leaveWaiting i) h Tenancy.enterHeld
  have turns : s.Turns _ i v _ := ⟨h, turns.after, turns.others, turns.config⟩
  have held := turns.kept_leaves (.enterHeld _ (Tenancy.attached_of_waits waits)) rfl (by simp [Tenancy.enterHeld])
    (by simp [Tenancy.enterHeld]) rfl rfl
  rw [State.grant, show (s.leaveWaiting i).tenancy i = some v from h]
  exact held.trans (State.raiseLease_kept _ _ _ _).toTableKept

theorem State.grant_waiter_kept {s : State} {i : EntryIx} {v : Tenancy} (h : s.tenancy i = some v)
    (waits : v.state = .queuedLocal) (handedOn : Bool) (may : s.Exclusive → s.MayHold i v) :
    s.LeaseKept ((s.leaveWaiting i).grant i handedOn) := by
  refine ⟨State.grant_waiter_table h waits handedOn, fun e => ?_⟩
  have turns := State.turns_modifyTenancy (s := s.leaveWaiting i) h Tenancy.enterHeld
  have turns : s.Turns _ i v _ := ⟨h, turns.after, turns.others, turns.config⟩
  rw [State.grant, show (s.leaveWaiting i).tenancy i = some v from h]
  exact (State.raiseLease_kept _ _ _ _).exclusive (turns.exclusive_holds rfl rfl rfl may e)

/-- A returned claim granted (R36). -/
theorem State.grant_claimer_kept {s : State} {i : EntryIx} {v : Tenancy} {phase : FramePhase} {lost : Bool}
    (h : s.tenancy i = some v) (claims : v.state = .claiming phase lost) (attached : v.attached = true) (handedOn : Bool) :
    s.LeaseKept (s.grant i handedOn) := by
  have turns := State.turns_modifyTenancy h Tenancy.enterHeld
  have held : s.LeaseKept (s.modifyTenancy i Tenancy.enterHeld) :=
    ⟨turns.kept_stays (.enterHeld _ fun _ => attached) rfl (by simp [Tenancy.enterHeld]) (by simp [claims])
        (by simp [Tenancy.enterHeld]) rfl rfl,
      turns.exclusive_stays fun u e _ => by
        obtain rfl := Option.some.inj e
        exact ⟨by simp [Tenancy.isActive, Tenancy.blocks, claims], rfl, rfl, fun _ => rfl⟩⟩
  rw [State.grant, h]
  exact held.trans (State.raiseLease_kept _ _ _ _)

/-! ### Entries that become CLAIMING (R6, R22, R40, R41) -/

theorem State.enterClaiming_waiter_kept {s : State} {i : EntryIx} {v : Tenancy} (h : s.tenancy i = some v)
    (waits : v.state = .queuedLocal) (clear : s.Exclusive → s.ClearBut i v.tag) :
    s.LeaseKept ((s.leaveWaiting i).enterClaiming i) := by
  have turns := State.turns_modifyTenancy (s := s.leaveWaiting i) h ({ · with state := .claiming .queued false })
  have turns : s.Turns ((s.leaveWaiting i).enterClaiming i) i v _ := ⟨h, turns.after, turns.others, turns.config⟩
  exact ⟨turns.kept_leaves
      (.claimingQueued _ (Tenancy.attached_of_waits waits) (Tenancy.attemptLeft_of_waits waits) false) rfl (by simp)
      (by simp) rfl rfl,
    turns.exclusive_clear fun e u hu => by obtain rfl := Option.some.inj hu; exact clear e⟩

theorem State.enterClaiming_backoff_kept {s : State} {i : EntryIx} {v : Tenancy} {timer : Nat} (h : s.tenancy i = some v)
    (waits : v.state = .backoff timer) : s.LeaseKept (s.enterClaiming i) := by
  have turns := State.turns_modifyTenancy h ({ · with state := .claiming .queued false })
  have turns : s.Turns (s.enterClaiming i) i v _ := ⟨h, turns.after, turns.others, turns.config⟩
  exact ⟨turns.kept_stays
      (.claimingQueued _ (Tenancy.attached_of_backoff waits) (Tenancy.attemptLeft_of_backoff waits) false) rfl (by simp)
      (by simp [waits]) (by simp) rfl rfl,
    turns.exclusive_stays fun u e _ => by
      obtain rfl := Option.some.inj e
      exact ⟨by simp [Tenancy.isActive, Tenancy.blocks, waits], rfl, rfl, by simp [Tenancy.isHeld, waits, EntryState.name]⟩⟩

/-! ### Examinations (R21 to R23) -/

/-- What each case of acceptance says of the tag. -/
theorem State.acceptance_inv (s : State) (tag : Tag) (m : Mode) :
    match s.acceptance tag m with
    | .blocked => s.Blocked tag
    | .wait => ¬ s.Blocked tag ∧ s.HeldOn tag ∧ (m = .exclusive ∨ s.HeldExclusiveOn tag)
    | .join => ¬ s.Blocked tag ∧ s.HeldOn tag ∧ m = .shared ∧ ¬ s.HeldExclusiveOn tag
    | .claim => ¬ s.Blocked tag ∧ ¬ s.HeldOn tag := by
  obtain ⟨blocked, wait, join, claim⟩ := s.acceptance_eq tag m
  by_cases b : s.Blocked tag
  · rw [blocked b]; exact b
  by_cases h : s.HeldOn tag
  · by_cases x : m = .exclusive ∨ s.HeldExclusiveOn tag
    · rw [wait b h x]; exact ⟨b, h, x⟩
    · have shared : m = .shared := by cases m <;> simp_all
      rw [join b h shared fun k => x (.inr k)]; exact ⟨b, h, shared, fun k => x (.inr k)⟩
  · rw [claim b h]; exact ⟨b, h⟩

theorem State.clearBut_of_free {s : State} {tag : Tag} (b : ¬ s.Blocked tag) (h : ¬ s.HeldOn tag) (i : EntryIx) :
    s.ClearBut i tag := fun j u _ hu hg => by
  rw [Bool.eq_false_iff]
  intro a
  rcases (Bool.or_eq_true _ _).mp a with k | k
  · exact h ⟨j, u, hu, hg, k⟩
  · exact b ⟨j, u, hu, hg, k⟩

theorem State.mayHold_of_join {s : State} {i : EntryIx} {v : Tenancy} (b : ¬ s.Blocked v.tag) (shared : v.mode = .shared)
    (x : ¬ s.HeldExclusiveOn v.tag) : s.MayHold i v := fun j w _ hw hg a => by
  rcases (Bool.or_eq_true _ _).mp a with k | k
  · refine ⟨shared, k, ?_⟩
    cases m : w.mode with
    | shared => rfl
    | exclusive => exact absurd ⟨j, w, hw, hg, k, m⟩ x
  · exact absurd ⟨j, w, hw, hg, k⟩ b

theorem State.treatHead_kept {s : State} {i : EntryIx} {v : Tenancy} (h : s.tenancy i = some v)
    (waits : v.state = .queuedLocal) : s.LeaseKept (s.treatHead i v.tag v.mode).1 := by
  have inv := s.acceptance_inv v.tag v.mode
  unfold State.treatHead
  split
  · exact .refl s
  · exact .refl s
  · next join =>
    rw [join] at inv
    obtain ⟨blocked, -, shared, exclusive⟩ := inv
    exact State.grant_waiter_kept h waits false fun _ => State.mayHold_of_join blocked shared exclusive
  · next claim =>
    rw [claim] at inv
    split
    · exact State.enterClaiming_waiter_kept h waits fun _ => State.clearBut_of_free inv.1 inv.2 i
    · rw [State.deny_leaveWaiting h]; exact s.deny_kept i _ _

/-- The head of a wait list is a waiting entry of the tag. -/
theorem State.waitList_head {s : State} {tag : Tag} {i : EntryIx} {rest : List EntryIx} (h : s.waitList tag = i :: rest) :
    ∃ v, s.tenancy i = some v ∧ v.tag = tag ∧ v.state = .queuedLocal := by
  obtain ⟨-, v, hv, hg, hq⟩ := State.mem_waitList.1 (h ▸ List.mem_cons_self : i ∈ s.waitList tag)
  exact ⟨v, hv, hg, Tenancy.isQueued_iff.1 hq⟩

theorem State.examineLoop_kept (tag : Tag) (n : Nat) (s : State) : s.LeaseKept (s.examineLoop tag n) := by
  induction n generalizing s with
  | zero => exact .refl s
  | succ n ih =>
    cases hw : s.waitList tag with
    | nil => simp only [State.examineLoop, hw]; exact .refl s
    | cons i rest =>
      obtain ⟨v, hv, rfl, waits⟩ := State.waitList_head hw
      simp only [State.examineLoop, hw, hv]
      split
      · exact (State.treatHead_kept hv waits).trans (ih _)
      · exact State.treatHead_kept hv waits

theorem State.examine_kept (s : State) (tag : Tag) : s.LeaseKept (s.examine tag) := State.examineLoop_kept _ _ _

/-- No entry is active on the tag. -/
def State.Clear (s : State) (tag : Tag) : Prop := ∀ j u, s.tenancy j = some u → u.tag = tag → u.isActive = false

theorem State.handOn_table (s : State) (tag : Tag) : s.TableKept (s.handOn tag) := by
  unfold State.handOn
  split
  · exact .refl s
  · next hw =>
    obtain ⟨v, hv, -, waits⟩ := State.waitList_head hw
    exact State.grant_waiter_table hv waits true

theorem State.handOn_kept {s : State} {tag : Tag} (clear : s.Exclusive → s.Clear tag) : s.LeaseKept (s.handOn tag) := by
  refine ⟨s.handOn_table tag, fun e => ?_⟩
  unfold State.handOn
  split
  · exact e
  · next hw =>
    obtain ⟨v, hv, rfl, waits⟩ := State.waitList_head hw
    exact (State.grant_waiter_kept hv waits true fun e => State.ClearBut.mayHold fun j u _ => clear e j u).exclusive e

theorem State.examineAfter_table (s : State) (tag : Tag) (handOn : Bool) : s.TableKept (s.examineAfter tag handOn) := by
  unfold State.examineAfter
  split
  · exact (s.handOn_table tag).trans (State.examine_kept _ _).toTableKept
  · exact (s.examine_kept tag).toTableKept

theorem State.examineAfter_kept {s : State} {tag : Tag} {handOn : Bool}
    (clear : handOn = true → s.Exclusive → s.Clear tag) : s.LeaseKept (s.examineAfter tag handOn) := by
  unfold State.examineAfter
  split
  · next h => exact (State.handOn_kept (clear h)).trans (State.examine_kept _ _)
  · exact s.examine_kept tag

theorem State.foldl_kept {α : Type} {f : State → α → State} (hf : ∀ (s : State) a, s.LeaseKept (f s a)) (l : List α) (s : State) :
    s.LeaseKept (l.foldl f s) := by
  induction l generalizing s with
  | nil => exact .refl s
  | cons a l ih => exact (hf s a).trans (ih _)

theorem State.foldl_table {α : Type} {f : State → α → State} (hf : ∀ (s : State) a, s.TableKept (f s a)) (l : List α) (s : State) :
    s.TableKept (l.foldl f s) := by
  induction l generalizing s with
  | nil => exact .refl s
  | cons a l ih => exact (hf s a).trans (ih _)

theorem State.examineTags_table (s : State) (tags handOns : List Tag) : s.TableKept (s.examineTags tags handOns) :=
  State.foldl_table (fun s tag => s.examineAfter_table tag _) tags s

theorem State.examineTags_nil_kept (s : State) (tags : List Tag) : s.LeaseKept (s.examineTags tags []) :=
  State.foldl_kept (fun _ tag => State.examineAfter_kept (handOn := ([] : List Tag).contains tag) (by simp)) tags s

/-! ### The release procedure (R57 to R60) -/

/-- A HELD entry goes to the ring: detached and RELEASING (R59). -/
theorem Tenancy.Follows.releasing (config : ConfigStore) (v : Tenancy) (phase : FramePhase)
    (timer : config.settings.inRange = true → (EntryState.releasing phase).TimerInRange) :
    v.Follows config { v with attached := false, state := .releasing phase } where
  owner := rfl
  tag := rfl
  mode := rfl
  attached := by simp
  attachment := fun _ => rfl
  range := fun ⟨h1, h2, h3, h4, h5, h6, _⟩ => ⟨h1, h2, h3, h4, h5, h6, trivial⟩
  timer := fun c _ => timer c

/-- A detached entry that ends may stand in CLOSING (R8, R9). -/
theorem Tenancy.Follows.detachedClosing (config : ConfigStore) (v : Tenancy) :
    v.Follows config { v with attached := false, state := .closing } where
  owner := rfl
  tag := rfl
  mode := rfl
  attached := by simp
  attachment := fun _ => trivial
  range := fun ⟨h1, h2, h3, h4, h5, h6, _⟩ => ⟨h1, h2, h3, h4, h5, h6, trivial⟩
  timer := fun _ _ => trivial

theorem Tenancy.not_isActive_closing (v : Tenancy) (b : Bool) :
    ({ v with attached := b, state := .closing } : Tenancy).isActive = false := rfl

theorem State.turns_detach_endTenancy {s : State} {i : EntryIx} {v : Tenancy} (h : s.tenancy i = some v) :
    s.Turns ((s.detach i).endTenancy i) i v ({ v with attached := false } : Tenancy).ended :=
  (State.turns_modifyTenancy h _).trans (State.turns_endTenancy (State.detach_tenancy h))

/-- An entry detached and ended at once keeps every invariant. -/
theorem State.detach_endTenancy_kept {s : State} {i : EntryIx} {v : Tenancy} (h : s.tenancy i = some v) :
    s.LeaseKept ((s.detach i).endTenancy i) := by
  have turns := State.turns_detach_endTenancy h
  have waiting : ((s.detach i).endTenancy i).lease.waiting = s.lease.waiting.filter (· != i) := by simp [State.detach]
  refine ⟨turns.kept (fun u e => ?_) (turns.wait_leaves waiting fun u e => ?_) ?_, turns.exclusive_stays fun u e a => ?_⟩
  · rw [(Tenancy.ended_eq_some e).1]; exact .detachedClosing _ v
  · rw [(Tenancy.ended_eq_some e).1]; simp
  · refine turns.defer (fun c => ChannelState.keepsNotices_of_deferral ?_) (fun c => ?_) fun _ u e _ => ?_
    · simp [State.channel, State.detach]
    · by_cases d : v.deferred = none <;> simp [Tenancy.ended, d, Tenancy.NoticeFor]
    · rw [(Tenancy.ended_eq_some e).1]; exact (Tenancy.ended_eq_some e).2
  · rw [(Tenancy.ended_eq_some e).1] at a; simp [Tenancy.not_isActive_closing] at a

/-- On the tag of its last holder no other entry is active (R14, R15). -/
theorem State.Exclusive.clearBut {s : State} (e : s.Exclusive) {i : EntryIx} {v : Tenancy} (h : s.tenancy i = some v)
    (held : v.isHeld = true) (last : s.LastHolder i v.tag) : s.ClearBut i v.tag := fun j w hj hw hg => by
  rw [Bool.eq_false_iff]
  intro a
  have := (e i j v w hj.symm h hw hg.symm (by simp [Tenancy.isActive, held]) a).2.1
  rw [last j w hj hw hg] at this; cases this

theorem State.toTheRing_kept {s : State} {i : EntryIx} {v : Tenancy} (h : s.tenancy i = some v) (held : v.isHeld = true)
    (last : s.LastHolder i v.tag) : s.LeaseKept (s.toTheRing i) := by
  have turns := (State.turns_modifyTenancy h ({ · with attached := false, state := .releasing .queued })).congr
    (u := s.toTheRing i) (fun _ => rfl) rfl
  obtain ⟨remaining, demand, hs⟩ := Tenancy.isHeld_iff.1 held
  exact ⟨turns.kept_stays (.releasing _ v _ fun _ => trivial) rfl (by simp) (by simp [hs]) (by simp) rfl rfl,
    turns.exclusive_clear fun e u hu => by obtain rfl := Option.some.inj hu; exact e.clearBut (v := v) h held last⟩

/-- Whether the release procedure finds another holder. -/
theorem State.passing_last {s : State} {i : EntryIx} {tag : Tag} {m : Mode} {demand : Bool}
    (h : s.passing i tag m demand ≠ .otherHolders) : s.LastHolder i tag := by
  by_contra other
  exact h ((s.passing_eq i tag m demand).1 other)

/-- What the release procedure does, by its decision: nothing to an entry that is not HELD; else the tenancy ends, with or
without a hand-on, or it goes to the ring as the last holder (R57 to R60). -/
theorem State.leaveHeld_cases (s : State) (i : EntryIx) :
    s.leaveHeld i = (s, false) ∨
    ∃ v, s.tenancy i = some v ∧ v.isHeld = true ∧
      (s.leaveHeld i = ((s.detach i).endTenancy i, false) ∨
       s.LastHolder i v.tag ∧ (s.leaveHeld i = ((s.detach i).endTenancy i, true) ∨ s.leaveHeld i = (s.toTheRing i, false))) := by
  cases h : s.tenancy i with
  | none => left; simp only [State.leaveHeld, h]
  | some v =>
    cases hs : v.state with
    | held remaining demand =>
      refine .inr ⟨v, rfl, Tenancy.isHeld_iff.2 ⟨_, _, hs⟩, ?_⟩
      have last := State.passing_last (s := s) (i := i) (tag := v.tag) (m := v.mode) (demand := demand)
      rw [State.leaveHeld_eq h hs]
      cases hp : s.passing i v.tag v.mode demand with
      | otherHolders => exact .inl rfl
      | noFrame => exact .inl rfl
      | handOn => exact .inr ⟨last (by simp [hp]), .inl rfl⟩
      | ringRelease => exact .inr ⟨last (by simp [hp]), .inr rfl⟩
    | _ => left; simp only [State.leaveHeld, h, hs]

theorem State.leaveHeld_kept (s : State) (i : EntryIx) : s.LeaseKept (s.leaveHeld i).1 := by
  rcases s.leaveHeld_cases i with e | ⟨v, h, held, e | ⟨last, e | e⟩⟩
  · rw [e]; exact .refl s
  · rw [e]; exact State.detach_endTenancy_kept h
  · rw [e]; exact State.detach_endTenancy_kept h
  · rw [e]; exact State.toTheRing_kept h held last

/-- Where the release procedure decides for a hand-on, no entry is active on the tag once the holder has gone. -/
theorem State.leaveHeld_handOn {s : State} {i : EntryIx} {v : Tenancy} (e : s.Exclusive) (h : s.tenancy i = some v)
    (on : (s.leaveHeld i).2 = true) : (s.leaveHeld i).1.Clear v.tag := by
  rcases s.leaveHeld_cases i with c | ⟨u, hu, held, c | ⟨last, c | c⟩⟩
  · simp [c] at on
  · simp [c] at on
  · obtain rfl : v = u := Option.some.inj (h.symm.trans hu)
    rw [c]
    have turns := State.turns_detach_endTenancy h
    intro j w hw hg
    by_cases ej : j = i
    · subst ej; rw [turns.after] at hw; rw [(Tenancy.ended_eq_some hw).1]; rfl
    · rw [turns.others j ej] at hw; exact e.clearBut h held last j w ej hw hg
  · simp [c] at on

theorem State.releaseHeld_kept {s : State} {i : EntryIx} {v : Tenancy} (h : s.tenancy i = some v) :
    s.LeaseKept (s.releaseHeld i v.tag) :=
  ⟨(s.leaveHeld_kept i).toTableKept.trans (State.examineAfter_table _ _ _), fun e =>
    (State.examineAfter_kept fun on _ => State.leaveHeld_handOn e h on).exclusive ((s.leaveHeld_kept i).exclusive e)⟩

end Sys2Proof.Machine

namespace Sys2Proof.Machine

/-! ### Tenancies that go on in their state (R27, R29, R31, R52, R55, R63) -/

/-- A HELD entry stays HELD for no longer than before. -/
theorem Tenancy.Follows.held (config : ConfigStore) {v : Tenancy} {remaining remaining' : Nat} {demand : Bool}
    (h : v.state = .held remaining demand) (le : remaining' ≤ remaining) (demand' contended expiring : Bool) :
    v.Follows config { v with state := .held remaining' demand', contendedNotified := contended,
                                expiringNotified := expiring } where
  owner := rfl
  tag := rfl
  mode := rfl
  attached := id
  attachment := by simp [Tenancy.AttachmentFollows, h]
  range := fun ⟨h1, h2, h3, h4, h5, h6, h7⟩ => ⟨h1, h2, h3, h4, h5, h6, by rw [h] at h7; exact Nat.le_trans le h7⟩
  timer := fun _ _ => trivial

/-- A CLAIMING entry takes a note of its loss (R31). -/
theorem Tenancy.Follows.setLost (config : ConfigStore) (v : Tenancy) : v.Follows config v.setLost := by
  unfold Tenancy.setLost
  split
  · next phase lost h =>
    cases phase <;>
    exact ⟨rfl, rfl, rfl, id, by simp [Tenancy.AttachmentFollows, h], fun ⟨h1, h2, h3, h4, h5, h6, h7⟩ =>
      ⟨h1, h2, h3, h4, h5, h6, by rw [h] at h7; exact h7⟩, fun _ k => by rw [h] at k; exact k⟩
  all_goals exact .refl _ v

theorem Tenancy.setLost_facts (v : Tenancy) :
    v.setLost.deferred = v.deferred ∧ v.setLost.isActive = v.isActive ∧ v.setLost.isHeld = v.isHeld ∧
      (v.setLost.state = .closing ↔ v.state = .closing) ∧ (v.setLost.state = .queuedLocal ↔ v.state = .queuedLocal) := by
  unfold Tenancy.setLost
  split
  · next h => simp [Tenancy.isActive, Tenancy.isHeld, Tenancy.blocks, EntryState.name, h]
  all_goals simp

/-- A claim in flight may be detached (R8). -/
theorem Tenancy.Follows.detachInFlight (config : ConfigStore) {v : Tenancy} {serial : Byte} {circuit : Nat} {lost : Bool}
    (h : v.state = .claiming (.inFlight serial circuit) lost) : v.Follows config { v with attached := false } :=
  ⟨rfl, rfl, rfl, by simp, by simp [Tenancy.AttachmentFollows, h], id, fun _ => id⟩

/-- An attached entry with an attempt left may back off (R38). -/
theorem Tenancy.Follows.backoff (config : ConfigStore) {v : Tenancy} (attached : v.attached = true)
    (left : v.attempts < v.attemptLimit) {timer : Nat} (ht : config.settings.inRange = true → timer ≤ 1020)
    (refusal : Option LastRefusal) : v.Follows config { v with lastRefusal := refusal, state := .backoff timer } where
  owner := rfl
  tag := rfl
  mode := rfl
  attached := id
  attachment := fun _ => attached
  range := fun ⟨h1, h2, h3, h4, h5, h6, _⟩ => ⟨h1, h2, h3, h4, h5, h6, left⟩
  timer := fun c _ => ht c

theorem Tenancy.Follows.lastRefusal (config : ConfigStore) (v : Tenancy) (refusal : Option LastRefusal) :
    v.Follows config { v with lastRefusal := refusal } := ⟨rfl, rfl, rfl, id, id, id, fun _ => id⟩

/-- The settings keep every timer that is started from them in its range (R38, R166). -/
theorem Settings.inRange_bounds {x : Settings} (h : x.inRange = true) :
    2 ≤ x.ringLimit ∧ x.circuitTimeout ≤ 255 ∧ x.retryInterval ≤ 255 ∧ x.censusInterval ≤ 2550 := by
  simp only [Settings.inRange, Bool.and_eq_true, decide_eq_true_eq] at h
  omega

theorem State.backoffTime_le {s : State} (h : s.SettingsInRange) (cause : FailCause) : s.backoffTime cause ≤ 1020 := by
  have := Settings.inRange_bounds h
  cases cause <;> simp only [State.backoffTime] <;> omega

/-! ### Changes of one tenancy that keep every invariant -/

/-- A tenancy that neither waits nor is CLOSING, before or afterwards, and keeps slot, activity and tenure. -/
theorem State.modifyTenancy_kept {s : State} {i : EntryIx} {v : Tenancy} (h : s.tenancy i = some v) {f : Tenancy → Tenancy}
    (follows : v.Follows s.config (f v)) (slot : (f v).deferred = v.deferred)
    (closing : (f v).state = .closing → v.state = .closing) (waits : (f v).state = .queuedLocal ↔ v.state = .queuedLocal)
    (active : (f v).isActive = true → v.isActive = true) (held : v.isHeld = true → (f v).isHeld = true) :
    s.LeaseKept (s.modifyTenancy i f) := by
  have turns := State.turns_modifyTenancy h f
  refine ⟨turns.kept (fun u e => Option.some.inj e ▸ follows) (turns.wait_stays rfl (by simp [waits])) ?_,
    turns.exclusive_stays fun u e a => ?_⟩
  · refine turns.defer (fun _ => ChannelState.keepsNotices_of_deferral rfl)
      (fun c => by simp [Tenancy.NoticeFor, slot, follows.owner]) fun e u hu k => ?_
    obtain rfl := Option.some.inj hu
    rw [slot]; exact e.2 i v h (closing k)
  · obtain rfl := Option.some.inj e
    exact ⟨active a, follows.tag, follows.mode, held⟩

theorem State.setLost_kept (s : State) (i : EntryIx) : s.LeaseKept (s.modifyTenancy i Tenancy.setLost) := by
  cases h : s.tenancy i with
  | none => rw [State.modifyTenancy_of_none h]; exact .refl s
  | some v =>
    obtain ⟨slot, active, held, closing, waits⟩ := v.setLost_facts
    exact State.modifyTenancy_kept h (.setLost _ v) slot closing.1 waits (by simp [active]) (by simp [held])

theorem State.demandOn_kept (tag : Tag) (claimant : StationNo) (s : State) (i : EntryIx) :
    s.LeaseKept (State.demandOn tag claimant s i) := by
  unfold State.demandOn
  split
  · exact .refl s
  · next v h =>
    split
    · next remaining demand hs =>
      have demanded : s.LeaseKept
          (s.modifyTenancy i ({ · with state := .held remaining true, contendedNotified := true })) :=
        State.modifyTenancy_kept h (.held _ hs (Nat.le_refl _) _ _ _) rfl (by simp) (by simp [hs])
          (by simp [Tenancy.isActive, Tenancy.isHeld, hs, EntryState.name]) (fun _ => rfl)
      split
      · dsimp only
        split
        · exact demanded
        · exact demanded.trans (State.raiseLease_kept _ _ _ _)
      · exact .refl s
    all_goals exact .refl s

/-! ### Failed attempts and returns (R34 to R43, R64, R65) -/

theorem State.endAndExamine_kept {s : State} {i : EntryIx} {v : Tenancy} (h : s.tenancy i = some v) (tag : Tag) :
    s.LeaseKept (s.endAndExamine i tag) := (State.endTenancy_kept h).trans (State.examine_kept _ _)

theorem State.failAttempt_kept {s : State} {i : EntryIx} {v : Tenancy} {phase : FramePhase} {lost : Bool}
    (h : s.tenancy i = some v) (claims : v.state = .claiming phase lost) (attached : v.attached = true) (cause : FailCause)
    (objector : Option StationNo) : s.LeaseKept (s.failAttempt i cause objector) := by
  by_cases left : v.attempts < v.attemptLimit
  · rw [State.failAttempt_backsOff h left]
    exact State.modifyTenancy_kept h (.backoff _ attached left (fun c => State.backoffTime_le c cause) _) rfl (by simp)
      (by simp [claims]) (by simp [Tenancy.isActive, Tenancy.blocks, claims])
      (by simp [Tenancy.isHeld, claims, EntryState.name])
  · rw [State.failAttempt_denied h (Nat.le_of_not_lt left)]
    have refused : s.LeaseKept
        (s.modifyTenancy i ({ · with lastRefusal := some { cause := cause, objector := objector } })) :=
      State.modifyTenancy_kept h (.lastRefusal _ v _) rfl id .rfl id id
    have denied := State.deny_kept
      (s.modifyTenancy i ({ · with lastRefusal := some { cause := cause, objector := objector } })) i cause.denyCause objector
    simp only [State.deny, State.modifyTenancy_tenancy_same, h, Option.map_some] at denied
    exact (refused.trans denied).trans (State.examine_kept _ _)

/-- What a search over the entries finds. -/
theorem State.find_spec {s : State} {p : Tenancy → Bool} {i : EntryIx} (h : allIx.find? (s.entryMeets p) = some i) :
    ∃ v, s.tenancy i = some v ∧ p v = true := State.entryMeets_iff.1 (by simpa using List.find?_some h)

theorem Tenancy.claimInFlight_spec {v : Tenancy} {serial : Byte} {tag : Tag} (h : v.claimInFlight serial tag = true) :
    v.tag = tag ∧ ∃ circuit lost, v.state = .claiming (.inFlight serial circuit) lost := by
  unfold Tenancy.claimInFlight at h
  split at h
  · next hs =>
    simp only [Bool.and_eq_true, beq_iff_eq] at h
    obtain ⟨rfl, g⟩ := h; exact ⟨g, _, _, hs⟩
  all_goals cases h

theorem State.claimReturn_kept (s : State) (serial : Byte) (tag : Tag) (held yield : Bool) (objector : Option StationNo) :
    s.LeaseKept (s.claimReturn serial tag held yield objector) := by
  unfold State.claimReturn
  split
  · exact .refl s
  · next i found =>
    obtain ⟨v, h, flies⟩ := State.find_spec found
    obtain ⟨-, circuit, lost, claims⟩ := Tenancy.claimInFlight_spec flies
    simp only [h]
    split
    · exact State.endAndExamine_kept h tag
    · next attached =>
      have attached : v.attached = true := by simpa using attached
      split
      · exact State.failAttempt_kept h claims attached _ _
      · split
        · exact State.failAttempt_kept h claims attached _ _
        · split
          · exact State.failAttempt_kept h claims attached _ _
          · exact (State.grant_claimer_kept h claims attached false).trans (State.examine_kept _ _)

theorem State.releaseReturn_kept (s : State) (serial : Byte) (tag : Tag) : s.LeaseKept (s.releaseReturn serial tag) := by
  unfold State.releaseReturn
  split
  · exact .refl s
  · next found =>
    obtain ⟨v, h, -⟩ := State.find_spec found
    exact State.endAndExamine_kept h tag

/-! ### Foreign frames (R28 to R33, R41) -/

theorem State.claimPasses_kept (s : State) (tag : Tag) (m : Mode) (standing : Nat) (claimant : StationNo) (k : ClaimMarks) :
    s.LeaseKept (s.claimPasses tag m standing claimant k).1 := by
  have holder : s.LeaseKept (s.objectAsHolder tag claimant k).1 := by
    unfold State.objectAsHolder
    generalize allIx = l
    exact State.foldl_kept (State.demandOn_kept tag claimant) l s
  have contest (i : EntryIx) (own : Nat) : s.LeaseKept (s.contest i own standing claimant k).1 := by
    unfold State.contest
    dsimp only
    split
    · exact .refl s
    · split <;> exact s.setLost_kept i
  unfold State.claimPasses
  split
  · exact holder
  · split
    · exact holder
    · exact .refl s
  · split
    · exact contest _ _
    · exact .refl s
  · exact .refl s

theorem State.releasePasses_kept (s : State) (tag : Tag) : s.LeaseKept (s.releasePasses tag) := by
  unfold State.releasePasses
  split
  · next i found =>
    obtain ⟨v, h, -, waits⟩ := State.onTag_iff.1 (by simpa using List.find?_some found : s.onTag tag Tenancy.isBackoff i = true)
    cases hs : v.state with
    | backoff timer => exact State.enterClaiming_backoff_kept h hs
    | _ => simp [Tenancy.isBackoff, EntryState.name, hs] at waits
  · exact .refl s

/-! ### A change of the station state (R47, R66) -/

theorem State.changeEntry_kept (cause : DenyCause) (s : State) (i : EntryIx) : s.LeaseKept (State.changeEntry cause s i) := by
  unfold State.changeEntry
  split
  · exact .refl s
  · next h =>
    split
    · split
      · exact s.deny_kept i _ _
      · exact State.endTenancy_kept h
    · exact s.deny_kept i _ _
    · exact State.endTenancy_kept h
    all_goals exact .refl s

/-- An update of the Lease Table's view of the station, or of another block, touches no tenancy. -/
theorem State.leaseKept_of_blocks {s t : State} (config : t.config = s.config) (entries : t.lease.entries = s.lease.entries)
    (waiting : t.lease.waiting = s.lease.waiting) (channels : t.channels = s.channels) : s.LeaseKept t :=
  State.leaseKept_of_same config (fun i => by simp [State.tenancy, State.entry, entries]) waiting
    fun c => ChannelState.keepsNotices_of_deferral (by simp [State.channel, channels])

theorem State.applyChange_kept (s : State) (x : StationState) : s.LeaseKept (s.applyChange x) :=
  (State.leaseKept_of_blocks (s := s) (t := s.setTaken x) rfl rfl rfl rfl).trans
    ((State.foldl_kept (State.changeEntry_kept _) allIx _).trans (State.examineTags_nil_kept _ _))

theorem State.absorbUp_kept (s : State) : s.LeaseKept s.absorbUp := by
  unfold State.absorbUp
  split
  · exact State.leaseKept_of_blocks rfl rfl rfl rfl
  · exact .refl s

theorem State.takeChange_kept (s : State) : s.LeaseKept s.takeChange := by
  unfold State.takeChange
  split
  · exact .refl s
  · exact s.absorbUp_kept
  · next rest _ _ =>
    exact (State.leaseKept_of_blocks (s := s) (t := s.setChanges rest) rfl rfl rfl rfl).trans
      ((State.applyChange_kept _ _).trans (State.absorbUp_kept _))

theorem State.takeChangesN_kept (n : Nat) (s : State) : s.LeaseKept (State.takeChangesN n s) := by
  induction n generalizing s with
  | zero => exact .refl s
  | succ n ih => exact s.takeChange_kept.trans (ih _)

theorem State.drawOrder_kept (s : State) : s.LeaseKept s.drawOrder := by
  have counted : s.LeaseKept { s with choices := s.choices + 1 } := State.leaseKept_of_blocks rfl rfl rfl rfl
  unfold State.drawOrder
  split
  · exact counted.trans (State.takeChangesN_kept _ _)
  · exact counted

end Sys2Proof.Machine

namespace Sys2Proof.Machine

/-! ### Slots that give up their notice (R135, R139, R141) -/

/-- An entry whose slot is emptied leaves the deferral lists, and is not CLOSING afterwards. -/
theorem State.Turns.defer_gives_up {s t : State} {i : EntryIx} {v : Tenancy} {x : Option Tenancy} (h : s.Turns t i v x)
    (lists : s.DeferralExact → ∀ c, (t.channel c).notices = (s.channel c).notices.filter (· != .entry i) ∧
      ((s.channel c).OneMarker → (t.channel c).OneMarker))
    (slot : ∀ u, x = some u → u.deferred = none ∧ u.state ≠ .closing) : s.DeferralExact → t.DeferralExact := fun e => by
  have list := lists e
  rw [State.deferralExact_iff] at e ⊢
  refine ⟨fun c => ⟨(list c).1 ▸ (e.1 c).1.filter _, (list c).2 (e.1 c).2.1, fun j => ?_⟩, fun j u hu hs => ?_⟩
  · rw [(list c).1, List.mem_filter, (e.1 c).2.2 j]
    by_cases ej : j = i
    · subst ej
      simp only [bne_self_eq_false, Bool.false_eq_true, and_false, false_iff, h.after]
      rintro ⟨u, hu, n⟩
      exact n.2 (slot u hu).1
    · simp [h.others j ej, ej]
  · by_cases ej : j = i
    · subst ej; rw [h.after] at hu; exact absurd hs (slot u hu).2
    · rw [h.others j ej] at hu; exact e.2 j u hu hs

/-- An entry with an empty slot stands in no deferral list. -/
theorem State.DeferralExact.not_listed {s : State} (e : s.DeferralExact) {i : EntryIx} {v : Tenancy} (h : s.tenancy i = some v)
    {c : Channel} (n : ¬ v.NoticeFor c) : (s.channel c).notices.filter (· != .entry i) = (s.channel c).notices := by
  rw [List.filter_eq_self]
  intro x hx
  simp only [bne_iff_ne, ne_eq]
  rintro rfl
  obtain ⟨u, hu, k⟩ := (((State.deferralExact_iff s).1 e).1 c).2.2 i |>.1 hx
  obtain rfl : v = u := Option.some.inj (h.symm.trans hu)
  exact n k

theorem ChannelState.notices_filter (c : ChannelState) (i : EntryIx) :
    ({ c with deferral := c.deferral.filter (· != .entry i) } : ChannelState).notices =
      c.notices.filter (· != .entry i) := by
  simp only [ChannelState.notices, List.filter_filter]
  exact List.filter_congr fun _ _ => Bool.and_comm _ _

theorem ChannelState.oneMarker_filter {c : ChannelState} (h : c.OneMarker) (p : DeferralItem → Bool) :
    ({ c with deferral := c.deferral.filter p } : ChannelState).OneMarker := by
  unfold ChannelState.OneMarker at h ⊢
  simp only [List.filter_filter, Bool.and_comm]
  rw [← List.filter_filter]
  exact (List.length_filter_le _ _).trans h

/-- What a discarded notice leaves of the deferral lists. -/
theorem State.discardDeferred_lists {s : State} {i : EntryIx} {v : Tenancy} (h : s.tenancy i = some v)
    (e : s.DeferralExact) (c : Channel) :
    ((s.discardDeferred i).channel c).notices = (s.channel c).notices.filter (· != .entry i) ∧
      ((s.channel c).OneMarker → ((s.discardDeferred i).channel c).OneMarker) := by
  have none_here (n : ¬ v.NoticeFor c) : (s.channel c).notices = (s.channel c).notices.filter (· != .entry i) :=
    (e.not_listed h n).symm
  unfold State.discardDeferred
  simp only [h]
  split
  · next d => exact ⟨none_here fun n => n.2 d, id⟩
  · rw [State.modifyChannel_channel]
    split
    · next o => subst o; exact ⟨ChannelState.notices_filter _ i, fun one => ChannelState.oneMarker_filter one _⟩
    · next o => exact ⟨none_here fun n => o n.1, id⟩

theorem State.turns_discardDeferred {s : State} {i : EntryIx} {v : Tenancy} (h : s.tenancy i = some v) :
    s.Turns (s.discardDeferred i) i v (some { v with deferred := none }) :=
  ⟨h, State.discardDeferred_tenancy h, fun _ hj => State.discardDeferred_other hj, (s.discardDeferred_work i).config⟩

/-- A notice discarded from an entry that is not CLOSING keeps every invariant (R141). -/
theorem State.discardDeferred_kept {s : State} {i : EntryIx} {v : Tenancy} (h : s.tenancy i = some v)
    (open_ : v.state ≠ .closing) : s.LeaseKept (s.discardDeferred i) := by
  have turns := State.turns_discardDeferred h
  exact ⟨turns.kept (fun u e => Option.some.inj e ▸ .slot _ v none) (turns.wait_stays (by simp) (by simp))
      (turns.defer_gives_up (fun e => State.discardDeferred_lists h e)
        fun u e => by obtain rfl := Option.some.inj e; exact ⟨rfl, open_⟩),
    turns.exclusive_stays fun u e a => by obtain rfl := Option.some.inj e; exact ⟨a, rfl, rfl, id⟩⟩

/-- An entry that goes FREE, out of wait and deferral lists. -/
theorem State.Turns.kept_freed {s t : State} {i : EntryIx} {v : Tenancy} (h : s.Turns t i v none)
    (waiting : t.lease.waiting = s.lease.waiting.filter (· != i))
    (lists : s.DeferralExact → ∀ c, (t.channel c).notices = (s.channel c).notices.filter (· != .entry i) ∧
      ((s.channel c).OneMarker → (t.channel c).OneMarker)) : s.LeaseKept t :=
  ⟨h.kept (by simp) (h.wait_leaves waiting (by simp)) (h.defer_gives_up lists (by simp)), h.exclusive_stays (by simp)⟩

/-- A CLOSING entry whose notice is discarded and whose tenancy then ends goes FREE (R67). -/
theorem State.discard_endTenancy_kept {s : State} {i : EntryIx} {v : Tenancy} (h : s.tenancy i = some v) :
    s.LeaseKept ((s.discardDeferred i).endTenancy i) := by
  have turns := (State.turns_discardDeferred h).trans (State.turns_endTenancy (State.discardDeferred_tenancy h))
  exact State.Turns.kept_freed turns (by simp) fun e c => by
    simpa [State.channel] using State.discardDeferred_lists h e c

/-! ### RELEASE (R67) -/

theorem State.detach_kept {s : State} {i : EntryIx} {v : Tenancy} {serial : Byte} {circuit : Nat} {lost : Bool}
    (h : s.tenancy i = some v) (flies : v.state = .claiming (.inFlight serial circuit) lost) : s.LeaseKept (s.detach i) :=
  State.modifyTenancy_kept h (.detachInFlight _ flies) rfl id .rfl id id

theorem State.releaseEntry_kept {s : State} {i : EntryIx} {v : Tenancy} (h : s.tenancy i = some v) :
    s.LeaseKept ((s.discardDeferred i).releaseEntry i v) := by
  have discarded := State.discardDeferred_tenancy h
  unfold State.releaseEntry
  split
  · next hs =>
    have ended := (State.discardDeferred_kept h (by simp [hs])).trans (State.endTenancy_kept discarded)
    dsimp only
    split
    · exact ended.trans (State.examine_kept _ _)
    · exact ended
  · next hs => exact (State.discardDeferred_kept h (by simp [hs])).trans (State.endAndExamine_kept discarded _)
  · next hs => exact (State.discardDeferred_kept h (by simp [hs])).trans (State.endAndExamine_kept discarded _)
  · exact (State.discard_endTenancy_kept h).trans (State.examine_kept _ _)
  · next hs => exact (State.discardDeferred_kept h (by simp [hs])).trans (State.detach_kept discarded hs)
  · next hs => exact (State.discardDeferred_kept h (by simp [hs])).trans (State.releaseHeld_kept (v := { v with deferred := none }) discarded)
  · next hs => exact State.discardDeferred_kept h (by simp [hs])

/-! ### READ EVENT (R139) -/

/-- The oldest item of a deferral list delivered keeps every invariant. Items passed over, which stand before it, are none where
the lists are exact. -/
theorem State.moveIn_kept (c : Channel) (l : List DeferralItem) (s : State) (passed : List DeferralItem)
    (list : (s.channel c).deferral = passed ++ l) (exact_ : s.DeferralExact → passed = []) :
    s.LeaseKept (State.moveIn c l s) := by
  induction l generalizing passed with
  | nil =>
    refine State.leaseKept_of_lists rfl (fun _ => rfl) rfl fun e => ?_
    refine (s.leaseKept_modifyChannel c _ (ChannelState.keepsNotices_of_deferral ?_)).defer e
    rw [list, exact_ e, List.nil_append]
  | cons x rest ih =>
    have list' (e : s.DeferralExact) : (s.channel c).deferral = x :: rest := by rw [list, exact_ e, List.nil_append]
    cases x with
    | marker set =>
      refine State.leaseKept_of_lists rfl (fun _ => rfl) rfl fun e => ?_
      refine (s.leaseKept_modifyChannel c _ ⟨?_, fun one => ?_⟩).defer e
      · simp [ChannelState.notices, list' e]
      · simp [ChannelState.OneMarker, list' e, List.filter_cons] at one ⊢
        rw [List.filter_eq_nil_iff.2 (by simpa using one)]; simp
    | entry i =>
      unfold State.moveIn
      split
      · next n v slot h =>
        have given (u : State) (hu : ∀ d, u.channel d = if c = d then
            { s.channel c with deferral := rest, queue := (s.channel c).queue ++ [.lease n] } else s.channel d)
            (e : s.DeferralExact) (d : Channel) :
            (u.channel d).notices = (s.channel d).notices.filter (· != .entry i) ∧
              ((s.channel d).OneMarker → (u.channel d).OneMarker) := by
          have nodup := (((State.deferralExact_iff s).1 e).1 c).1
          have mine := ((((State.deferralExact_iff s).1 e).1 c).2.2 i).1 (by simp [ChannelState.notices, list' e])
          obtain ⟨w, hw, owner, -⟩ := mine
          obtain rfl : v = w := Option.some.inj (h.symm.trans hw)
          rw [hu d]
          split
          · next o =>
            subst o
            simp only [ChannelState.notices, list' e, DeferralItem.isMarker_entry, Bool.not_false, List.filter_cons_of_pos,
              List.nodup_cons] at nodup ⊢
            refine ⟨?_, by simp [ChannelState.OneMarker, list' e]⟩
            rw [List.filter_cons_of_neg (by simp)]
            exact (List.filter_eq_self.2 fun y hy => by
              simp only [bne_iff_ne, ne_eq]; rintro rfl; exact nodup.1 hy).symm
          · next o => exact ⟨(e.not_listed h fun k => o (owner.symm.trans k.1)).symm, id⟩
        have turns := (State.turns_modifyTenancy h ({ · with deferred := none })).congr
          (u := (s.modifyChannel c fun x => { x with deferral := rest, queue := x.queue ++ [.lease n] }).modifyTenancy i
            ({ · with deferred := none })) (fun _ => rfl) rfl
        have channels (d : Channel) := State.modifyChannel_channel s c d
          fun x => { x with deferral := rest, queue := x.queue ++ [.lease n] }
        dsimp only
        split
        · refine State.LeaseKept.trans ?_ (State.examine_kept _ _)
          have ends := turns.trans (State.turns_endTenancy turns.after)
          exact State.Turns.kept_freed ends (by simp) (given _ fun d => by
            simp only [State.channel, State.endTenancy_channels]
            exact channels d)
        · next open_ =>
          exact ⟨turns.kept (fun u e => Option.some.inj e ▸ .slot _ v none) (turns.wait_stays rfl (by simp))
              (turns.defer_gives_up (given _ channels)
                fun u e => by obtain rfl := Option.some.inj e; exact ⟨rfl, open_⟩),
            turns.exclusive_stays fun u e a => by obtain rfl := Option.some.inj e; exact ⟨a, rfl, rfl, id⟩⟩
      · next none_ =>
        refine ih (passed ++ [.entry i]) (by simp [list]) fun e => ?_
        have listed : DeferralItem.entry i ∈ (s.channel c).deferral := by simp [list' e]
        obtain ⟨v, hv, -, slot⟩ := ((e.1 c).2.2 i).1 listed
        cases hd : v.deferred with
        | none => exact absurd hd slot
        | some n => exact absurd (by simp [hv, hd]) (none_ n v · hv)

theorem State.readEvent_kept (s : State) (c : Channel) : s.LeaseKept (s.readEvent c) := by
  unfold State.readEvent
  split
  · exact s.leaseKept_modifyChannel c _ (ChannelState.keepsNotices_of_deferral rfl)
  · refine (s.leaseKept_modifyChannel c _ (ChannelState.keepsNotices_of_deferral rfl)).trans
      (State.moveIn_kept c _ _ [] ?_ fun _ => rfl)
    simp

end Sys2Proof.Machine

namespace Sys2Proof.Machine

/-! ### The first part of a channel reset: events and entries of the channel that go FREE (R71, R142) -/

/-- The entry is the channel's and of a kind that its reset makes FREE at once (R71). -/
def State.resetFreesAt (s : State) (c : Channel) (i : EntryIx) : Bool := s.entryMeets (fun t => t.owner == c && t.resetFrees) i

/-- The channel's slots are empty. -/
def State.SlotsEmpty (s : State) (c : Channel) : Prop := ∀ i t, s.tenancy i = some t → t.owner = c → t.deferred = none

/-- What the making free of some entries of a channel leaves. -/
structure State.Frees (s : State) (c : Channel) (l : List EntryIx) (t : State) : Prop where
  tenancy : ∀ j, t.tenancy j = if j ∈ l ∧ s.resetFreesAt c j = true then none else s.tenancy j
  waiting : t.lease.waiting = s.lease.waiting.filter fun j => !(decide (j ∈ l) && s.resetFreesAt c j)
  sendList : t.frames.sendList = s.frames.sendList.filter fun x => !(l.any fun j => x.isOf j && s.resetFreesAt c j)
  channels : t.channels = s.channels

theorem State.resetFree_eq (s : State) (c : Channel) (i : EntryIx) :
    State.resetFree c s i = if s.resetFreesAt c i = true then s.endTenancy i else s := rfl

theorem State.resetFree_frees {s : State} {c : Channel} (empty : s.SlotsEmpty c) (i : EntryIx) :
    s.Frees c [i] (State.resetFree c s i) := by
  rw [State.resetFree_eq]
  by_cases meets : s.resetFreesAt c i = true
  · obtain ⟨v, h, owner⟩ := State.entryMeets_iff.1 meets
    have slot := empty i v h (by simp at owner; exact owner.1)
    rw [if_pos meets]
    refine ⟨fun j => ?_, ?_, ?_, s.endTenancy_channels i⟩
    · rw [State.endTenancy_tenancy]
      by_cases e : j = i
      · subst e; simp [h, slot, meets]
      · simp [e]
    · rw [State.endTenancy_waiting]
      refine List.filter_congr fun j _ => ?_
      by_cases e : j = i
      · subst e; simp [meets]
      · simp [e]
    · rw [State.endTenancy_sendList]
      exact List.filter_congr fun x _ => by simp [meets]
  · rw [if_neg meets]
    have off : s.resetFreesAt c i = false := by simpa using meets
    refine ⟨fun j => ?_, ?_, ?_, rfl⟩
    · by_cases e : j = i
      · subst e; simp [off]
      · simp [e]
    · refine (List.filter_eq_self.2 fun j _ => ?_).symm
      by_cases e : j = i
      · subst e; simp [off]
      · simp [e]
    · exact (List.filter_eq_self.2 fun x _ => by simp [off]).symm

theorem State.Frees.slotsEmpty {s t : State} {c : Channel} {l : List EntryIx} (h : s.Frees c l t) (empty : s.SlotsEmpty c) :
    t.SlotsEmpty c := fun j u hu => by
  rw [h.tenancy] at hu
  split at hu
  · cases hu
  · exact empty j u hu

/-- An entry that is FREE already is not one to be made free. -/
theorem State.Frees.resetFreesAt {s t : State} {c : Channel} {l : List EntryIx} (h : s.Frees c l t) (j : EntryIx) :
    t.resetFreesAt c j = (decide (j ∉ l) && s.resetFreesAt c j) := by
  unfold State.resetFreesAt State.entryMeets
  rw [h.tenancy]
  by_cases m : j ∈ l
  · cases f : s.resetFreesAt c j
    · simpa [m, State.resetFreesAt, State.entryMeets] using f
    · simp [m]
  · simp [m]

theorem State.resetFree_foldl {s : State} {c : Channel} (empty : s.SlotsEmpty c) (l : List EntryIx) :
    s.Frees c l (l.foldl (State.resetFree c) s) := by
  induction l generalizing s with
  | nil => exact ⟨by simp, by simp, by simp, rfl⟩
  | cons i l ih =>
    have one := State.resetFree_frees empty i
    have rest := ih (one.slotsEmpty empty)
    have left (j : EntryIx) : (State.resetFree c s i).resetFreesAt c j = (decide (j ≠ i) && s.resetFreesAt c j) := by
      rw [one.resetFreesAt]; simp
    refine ⟨fun j => ?_, ?_, ?_, rest.channels.trans one.channels⟩
    · rw [List.foldl_cons, rest.tenancy, one.tenancy, left]
      by_cases e : j = i
      · simp [e]
      · simp [e]
    · rw [List.foldl_cons, rest.waiting, one.waiting, List.filter_filter]
      refine List.filter_congr fun j _ => ?_
      rw [left]
      by_cases e : j = i
      · subst e; simp
      · simp [e]
    · rw [List.foldl_cons, rest.sendList, one.sendList, List.filter_filter]
      refine List.filter_congr fun x _ => ?_
      simp only [left, List.any_cons, List.any_nil, Bool.or_false]
      cases here : x.isOf i && s.resetFreesAt c i
      · simp only [Bool.false_or, Bool.not_false, Bool.and_true]
        congr 2
        funext j
        by_cases e : j = i
        · subst e; simpa using here.symm
        · simp [e]
      · simp

/-- The block once a channel reset has emptied the channel's events and made free what goes FREE at once. -/
def State.resetFreed (s : State) (c : Channel) : State := allIx.foldl (State.resetFree c) (s.resetEvents c)

theorem State.resetEvents_slotsEmpty (s : State) (c : Channel) : (s.resetEvents c).SlotsEmpty c := fun i u hu owner => by
  rw [State.resetEvents_tenancy] at hu
  obtain ⟨v, -, rfl⟩ := Option.map_eq_some_iff.1 hu
  split at owner <;> simp_all

theorem State.resetEvents_resetFreesAt (s : State) (c d : Channel) (i : EntryIx) :
    (s.resetEvents c).resetFreesAt d i = s.resetFreesAt d i := by
  unfold State.resetFreesAt State.entryMeets
  rw [State.resetEvents_tenancy]
  cases s.tenancy i with
  | none => rfl
  | some v =>
    simp only [Option.map_some]
    split <;> rfl

/-- What is left of a tenancy: of the channel's, those that the reset does not free, with their slots emptied. -/
def Tenancy.resetFreed (c : Channel) (t : Tenancy) : Option Tenancy :=
  if t.owner = c then (if t.resetFrees then none else some { t with deferred := none }) else some t

theorem State.resetFreed_frees (s : State) (c : Channel) : (s.resetEvents c).Frees c allIx (s.resetFreed c) :=
  State.resetFree_foldl (s.resetEvents_slotsEmpty c) allIx

theorem State.resetFreed_tenancy (s : State) (c : Channel) (i : EntryIx) :
    (s.resetFreed c).tenancy i = (s.tenancy i).bind (Tenancy.resetFreed c) := by
  rw [(s.resetFreed_frees c).tenancy, State.resetEvents_resetFreesAt, State.resetEvents_tenancy]
  cases h : s.tenancy i with
  | none => simp
  | some v =>
    have at_ : s.resetFreesAt c i = (v.owner == c && v.resetFrees) := by simp [State.resetFreesAt, State.entryMeets, h]
    by_cases o : v.owner = c
    · cases f : v.resetFrees <;> simp [at_, Tenancy.resetFreed, o, f, allIx]
    · simp [at_, Tenancy.resetFreed, o]

theorem State.resetFreed_waiting (s : State) (c : Channel) :
    (s.resetFreed c).lease.waiting = s.lease.waiting.filter fun j => !s.resetFreesAt c j := by
  rw [(s.resetFreed_frees c).waiting]
  simp only [State.resetEvents_resetFreesAt]
  exact List.filter_congr fun j _ => by simp [allIx]

theorem State.resetFreed_channel (s : State) (c d : Channel) :
    (s.resetFreed c).channel d = if c = d then { s.channel c with queue := [], deferral := [] } else s.channel d := by
  simp only [State.channel, (s.resetFreed_frees c).channels]
  exact State.modifyChannel_channel _ c d _

theorem State.resetFreed_work (s : State) (c : Channel) : s.LeaseWork (s.resetFreed c) :=
  (s.resetEvents_work c).trans (State.foldl_work (State.resetFree_work c) allIx _)

theorem Tenancy.resetFreed_eq_some {c : Channel} {v u : Tenancy} (h : v.resetFreed c = some u) :
    (v.owner ≠ c ∧ u = v) ∨ (v.owner = c ∧ v.resetFrees = false ∧ u = { v with deferred := none }) := by
  unfold Tenancy.resetFreed at h
  split at h
  · next o =>
    split at h
    · cases h
    · next f => exact .inr ⟨o, by simpa using f, (Option.some.inj h).symm⟩
  · next o => exact .inl ⟨o, (Option.some.inj h).symm⟩

/-- A tenancy left by the first part of a channel reset was there before, in all but its slot. -/
theorem State.resetFreed_before {s : State} {c : Channel} {i : EntryIx} {u : Tenancy}
    (h : (s.resetFreed c).tenancy i = some u) : ∃ v, s.tenancy i = some v ∧
      ((v.owner ≠ c ∧ u = v) ∨ (v.owner = c ∧ v.resetFrees = false ∧ u = { v with deferred := none })) := by
  rw [State.resetFreed_tenancy] at h
  obtain ⟨v, hv, hu⟩ := Option.bind_eq_some_iff.1 h
  exact ⟨v, hv, Tenancy.resetFreed_eq_some hu⟩

theorem Tenancy.resetFrees_of_waits {v : Tenancy} (h : v.state = .queuedLocal) : v.resetFrees = true := by
  simp [Tenancy.resetFrees, h]

/-- The wait lists stay exact: the waiting entries of the channel go FREE and leave them together. -/
theorem State.resetFreed_wait {s : State} (c : Channel) (e : s.WaitListsExact) : (s.resetFreed c).WaitListsExact := by
  refine ⟨State.resetFreed_waiting s c ▸ e.1.filter _, fun i => ?_⟩
  rw [State.resetFreed_waiting, List.mem_filter, e.2 i]
  constructor
  · rintro ⟨⟨v, hv, waits⟩, kept⟩
    have other : v.owner ≠ c := by
      rintro rfl
      simp [State.resetFreesAt, State.entryMeets, hv, Tenancy.resetFrees_of_waits waits] at kept
    exact ⟨v, by simp [State.resetFreed_tenancy, hv, Tenancy.resetFreed, other], waits⟩
  · rintro ⟨u, hu, waits⟩
    obtain ⟨v, hv, ⟨o, rfl⟩ | ⟨-, f, rfl⟩⟩ := State.resetFreed_before hu
    · exact ⟨⟨u, hv, waits⟩, by simp [State.resetFreesAt, State.entryMeets, hv, o]⟩
    · exact absurd ((Tenancy.resetFrees_of_waits (v := v) waits).symm.trans f) (by simp)

/-- The deferral lists stay exact: those of the channel are empty, as are its slots, and its CLOSING entries are FREE. -/
theorem State.resetFreed_defer {s : State} (c : Channel) (e : s.DeferralExact) : (s.resetFreed c).DeferralExact := by
  refine ⟨fun d => ?_, fun i u hu closing => ?_⟩
  · rw [State.resetFreed_channel]
    split
    · next o =>
      subst o
      refine ⟨by simp, by simp, fun i => ?_⟩
      simp only [List.not_mem_nil, false_iff]
      rintro ⟨u, hu, owner, slot⟩
      obtain ⟨v, -, ⟨o, rfl⟩ | ⟨-, -, rfl⟩⟩ := State.resetFreed_before hu
      · exact o owner
      · exact slot rfl
    · next o =>
      refine ⟨(e.1 d).1, (e.1 d).2.1, fun i => ?_⟩
      rw [(e.1 d).2.2 i]
      constructor
      · rintro ⟨v, hv, rfl, slot⟩
        exact ⟨v, by simp [State.resetFreed_tenancy, hv, Tenancy.resetFreed, Ne.symm o], rfl, slot⟩
      · rintro ⟨u, hu, owner, slot⟩
        obtain ⟨v, hv, ⟨-, rfl⟩ | ⟨-, -, rfl⟩⟩ := State.resetFreed_before hu
        · exact ⟨u, hv, owner, slot⟩
        · exact absurd rfl slot
  · obtain ⟨v, hv, ⟨-, rfl⟩ | ⟨-, f, rfl⟩⟩ := State.resetFreed_before hu
    · exact e.2 i u hv closing
    · change v.state = .closing at closing
      simp [Tenancy.resetFrees, closing] at f

theorem State.resetFreed_kept (s : State) (c : Channel) : s.LeaseKept (s.resetFreed c) := by
  have same {i : EntryIx} {u : Tenancy} (hu : (s.resetFreed c).tenancy i = some u) :
      ∃ v d, s.tenancy i = some v ∧ u = { v with deferred := d } := by
    obtain ⟨v, hv, ⟨-, rfl⟩ | ⟨-, -, rfl⟩⟩ := State.resetFreed_before hu
    · exact ⟨u, u.deferred, hv, rfl⟩
    · exact ⟨v, none, hv, rfl⟩
  have config := (s.resetFreed_work c).config
  refine ⟨⟨config, fun i u hu => ?_, State.resetFreed_wait c, State.resetFreed_defer c, fun law => ⟨fun i u hu => ?_,
    fun i j u w hij hu hw au aw => ?_⟩, fun r i u hu => ?_, fun _ r i u hu => ?_⟩, fun e i j u w hij hu hw => ?_⟩
  · obtain ⟨v, d, hv, rfl⟩ := same hu; exact ⟨v, hv, rfl⟩
  · obtain ⟨v, d, hv, rfl⟩ := same hu; exact law.1 i v hv
  · obtain ⟨v, d, hv, rfl⟩ := same hu
    obtain ⟨x, f, hx, rfl⟩ := same hw
    exact law.2 i j v x hij hv hx au aw
  · obtain ⟨v, d, hv, rfl⟩ := same hu; simp only [State.limits, config]; exact r i v hv
  · obtain ⟨v, d, hv, rfl⟩ := same hu; exact r i v hv
  · obtain ⟨v, d, hv, rfl⟩ := same hu
    obtain ⟨x, f, hx, rfl⟩ := same hw
    exact e i j v x hij hv hx

/-! ### The second part: claims in flight detached -/

/-- Every CLAIMING entry of the channel is in flight: those with their frame queued have gone FREE. -/
def State.ClaimsFly (s : State) (c : Channel) : Prop :=
  ∀ i t phase lost, s.tenancy i = some t → t.owner = c → t.state = .claiming phase lost →
    ∃ serial circuit, phase = .inFlight serial circuit

theorem State.resetFreed_claimsFly (s : State) (c : Channel) : (s.resetFreed c).ClaimsFly c := fun i u phase lost hu owner hs => by
  obtain ⟨v, hv, ⟨o, rfl⟩ | ⟨-, f, rfl⟩⟩ := State.resetFreed_before hu
  · exact absurd owner o
  · change v.state = _ at hs
    cases phase with
    | queued => simp [Tenancy.resetFrees, hs] at f
    | inFlight serial circuit => exact ⟨serial, circuit, rfl⟩

theorem State.resetDetach_kept {s : State} {c : Channel} (fly : s.ClaimsFly c) (i : EntryIx) :
    s.LeaseKept (State.resetDetach c s i) ∧ (State.resetDetach c s i).ClaimsFly c := by
  unfold State.resetDetach
  split
  · next meets =>
    obtain ⟨v, h, m⟩ := State.entryMeets_iff.1 meets
    simp only [Bool.and_eq_true, beq_iff_eq] at m
    obtain ⟨owner, name⟩ := m
    cases hs : v.state with
    | claiming phase lost =>
      obtain ⟨serial, circuit, rfl⟩ := fly i v phase lost h owner hs
      refine ⟨State.detach_kept h hs, fun j u phase' lost' hu => ?_⟩
      have turns := State.turns_modifyTenancy h ({ · with attached := false })
      by_cases e : j = i
      · subst e
        rw [show (s.detach j).tenancy j = _ from turns.after] at hu
        obtain rfl := Option.some.inj hu
        exact fly j v phase' lost' h
      · rw [show (s.detach i).tenancy j = _ from turns.others j e] at hu
        exact fly j u phase' lost' hu
    | _ => simp [EntryState.name, hs] at name
  · exact ⟨.refl s, fly⟩

theorem State.resetDetach_foldl {s : State} {c : Channel} (fly : s.ClaimsFly c) (l : List EntryIx) :
    s.LeaseKept (l.foldl (State.resetDetach c) s) := by
  induction l generalizing s with
  | nil => exact .refl s
  | cons i l ih =>
    obtain ⟨kept, fly'⟩ := State.resetDetach_kept fly i
    exact kept.trans (ih fly')

/-! ### The third part: HELD entries released, and the tags examined -/

theorem State.resetRelease_table (c : Channel) (r : State × List Tag) (i : EntryIx) :
    r.1.TableKept (State.resetRelease c r i).1 := by
  unfold State.resetRelease
  split
  · split
    · exact (r.1.leaveHeld_kept i).toTableKept
    · exact .refl _
  · exact .refl _

/-- What holds while a channel reset releases its HELD entries: no tag that is to be handed on has an active entry. -/
def handsOnClear (r : State × List Tag) : Prop := r.1.Exclusive ∧ ∀ g ∈ r.2, r.1.Clear g

theorem State.Exclusive.handsOnClear {s : State} (e : s.Exclusive) : handsOnClear (s, []) := ⟨e, by simp⟩

/-- The release procedure touches the entry that it is run for, and leaves no other tag with an active entry that had none. -/
theorem State.leaveHeld_clear {s : State} {i : EntryIx} {v : Tenancy} (h : s.tenancy i = some v) (held : v.isHeld = true)
    {g : Tag} (clear : s.Clear g) : (s.leaveHeld i).1.Clear g := fun j u hu hg => by
  obtain ⟨w, hw, -, tag, -⟩ := (s.leaveHeld_work i).fixed j u hu
  have inactive := clear j w hw (tag ▸ hg)
  by_cases e : j = i
  · subst e
    obtain rfl := Option.some.inj (h.symm.trans hw)
    simp [Tenancy.isActive, held] at inactive
  · have other : (s.leaveHeld i).1.tenancy j = s.tenancy j := by
      rcases s.leaveHeld_cases i with c | ⟨x, hx, -, c | ⟨-, c | c⟩⟩
      · rw [c]
      · rw [c]; exact (State.turns_detach_endTenancy hx).others j e
      · rw [c]; exact (State.turns_detach_endTenancy hx).others j e
      · rw [c]; exact (State.turns_modifyTenancy hx _).others j e
    rw [other, hw] at hu
    obtain rfl := Option.some.inj hu
    exact inactive

theorem State.resetRelease_clear {c : Channel} {r : State × List Tag} (h : handsOnClear r) (i : EntryIx) :
    handsOnClear (State.resetRelease c r i) := by
  unfold State.resetRelease
  split
  · next v hv =>
    split
    · next m =>
      simp only [Bool.and_eq_true] at m
      refine ⟨(r.1.leaveHeld_kept i).exclusive h.1, fun g hg => ?_⟩
      dsimp only at hg
      split at hg
      · next on =>
        rcases List.mem_cons.1 hg with rfl | hg
        · exact State.leaveHeld_handOn h.1 hv on
        · exact State.leaveHeld_clear hv m.2 (h.2 g hg)
      · exact State.leaveHeld_clear hv m.2 (h.2 g hg)
    · exact h
  · exact h

theorem State.resetRelease_foldl (c : Channel) (l : List EntryIx) (r : State × List Tag) :
    r.1.TableKept (l.foldl (State.resetRelease c) r).1 ∧
      (handsOnClear r → handsOnClear (l.foldl (State.resetRelease c) r)) := by
  induction l generalizing r with
  | nil => exact ⟨.refl _, id⟩
  | cons i l ih =>
    exact ⟨(State.resetRelease_table c r i).trans (ih _).1, fun h => (ih _).2 (State.resetRelease_clear h i)⟩

/-- Entries off a tag stand as before. -/
def State.OffTag (s : State) (g : Tag) (t : State) : Prop :=
  ∀ j, (∀ v, s.tenancy j = some v → v.tag ≠ g) → t.tenancy j = s.tenancy j

theorem State.OffTag.trans {s t u : State} {g : Tag} (h : s.OffTag g t) (k : t.OffTag g u) : s.OffTag g u := fun j off =>
  (k j (by rw [h j off]; exact off)).trans (h j off)

theorem State.treatHead_offTag {s : State} {i : EntryIx} {v : Tenancy} (h : s.tenancy i = some v) :
    s.OffTag v.tag (s.treatHead i v.tag v.mode).1 := fun j off => by
  have ne : j ≠ i := by rintro rfl; exact off v h rfl
  unfold State.treatHead
  split
  · rfl
  · rfl
  · obtain ⟨d, hd⟩ := (s.leaveWaiting i).grant_tenancy i j false
    exact hd.trans (if_neg ne)
  · split
    · simp only [State.enterClaiming, State.setSendList_tenancy, State.modifyTenancy_tenancy, if_neg (Ne.symm ne)]; rfl
    · exact ((s.leaveWaiting i).deny_tenancy i j _ _).1 ne

theorem State.examineLoop_offTag (tag : Tag) (n : Nat) (s : State) : s.OffTag tag (s.examineLoop tag n) := by
  induction n generalizing s with
  | zero => exact fun _ _ => rfl
  | succ n ih =>
    cases hw : s.waitList tag with
    | nil => simp only [State.examineLoop, hw]; exact fun _ _ => rfl
    | cons i rest =>
      obtain ⟨v, hv, rfl, -⟩ := State.waitList_head hw
      simp only [State.examineLoop, hw, hv]
      split
      · exact (State.treatHead_offTag hv).trans (ih _)
      · exact State.treatHead_offTag hv

theorem State.handOn_offTag (s : State) (tag : Tag) : s.OffTag tag (s.handOn tag) := by
  unfold State.handOn
  split
  · exact fun _ _ => rfl
  · next i _ hw =>
    obtain ⟨v, hv, rfl, -⟩ := State.waitList_head hw
    intro j off
    obtain ⟨d, hd⟩ := (s.leaveWaiting i).grant_tenancy i j true
    exact hd.trans (if_neg (by rintro rfl; exact off v hv rfl))

theorem State.examineAfter_offTag (s : State) (tag : Tag) (handOn : Bool) : s.OffTag tag (s.examineAfter tag handOn) := by
  unfold State.examineAfter
  split
  · exact (s.handOn_offTag tag).trans (State.examineLoop_offTag _ _ _)
  · exact State.examineLoop_offTag _ _ _

theorem State.examineAfter_clear {s : State} {tag g : Tag} (ne : g ≠ tag) (clear : s.Clear g) (handOn : Bool) :
    (s.examineAfter tag handOn).Clear g := fun j u hu hg => by
  obtain ⟨v, hv, -, same, -⟩ := (s.examineAfter_work tag handOn).fixed j u hu
  have vg : v.tag = g := same.symm.trans hg
  rw [s.examineAfter_offTag tag handOn j fun w hw => by
    obtain rfl := Option.some.inj (hv.symm.trans hw); rw [vg]; exact ne] at hu
  exact clear j u hu hg

/-- The examinations after a channel reset keep every tag exclusive, each hand-on coming to a tag without an active entry. -/
theorem State.examineTags_exclusive {s : State} {tags handOns : List Tag} (nodup : tags.Nodup)
    (clear : ∀ g ∈ handOns, s.Clear g) (e : s.Exclusive) : (s.examineTags tags handOns).Exclusive := by
  suffices ∀ (l : List Tag) (s : State), l.Nodup → (∀ g ∈ l, g ∈ handOns → s.Clear g) → s.Exclusive →
      (l.foldl (fun s tag => s.examineAfter tag (handOns.contains tag)) s).Exclusive from
    this tags s nodup (fun g _ => clear g) e
  intro l
  induction l with
  | nil => exact fun _ _ _ e => e
  | cons tag l ih =>
    intro s nodup clear e
    obtain ⟨absent, nodup⟩ := List.nodup_cons.1 nodup
    refine ih _ nodup (fun g hg on => ?_) ((State.examineAfter_kept fun on _ => ?_).exclusive e)
    · exact State.examineAfter_clear (by rintro rfl; exact absent hg) (clear g (List.mem_cons_of_mem _ hg) on) _
    · exact clear tag List.mem_cons_self (by simpa using on)

theorem State.tagsOf_nodup (s : State) (p : Tenancy → Bool) : (s.tagsOf p).Nodup :=
  (s.tagsOf_ascending p).imp fun lt e => by rw [e] at lt; exact Nat.lt_irrefl _ lt

/-- The block once a channel reset has detached the channel's claims in flight. -/
def State.resetDetached (s : State) (c : Channel) : State := allIx.foldl (State.resetDetach c) (s.resetFreed c)

/-- The block of a channel reset before its tags are examined, with the tags that are handed on. -/
def State.resetReleased (s : State) (c : Channel) : State × List Tag :=
  allIx.foldl (State.resetRelease c) (s.resetDetached c, [])

theorem State.resetReleased_kept (s : State) (c : Channel) :
    (s.resetDetached c).TableKept (s.resetReleased c).1 ∧
      ((s.resetDetached c).Exclusive → handsOnClear (s.resetReleased c)) := by
  have of_list (l : List EntryIx) (u : State) (r : State × List Tag) (h : r = l.foldl (State.resetRelease c) (u, [])) :
      u.TableKept r.1 ∧ (u.Exclusive → handsOnClear r) := by
    subst h
    obtain ⟨table, clear⟩ := State.resetRelease_foldl c l (u, [])
    exact ⟨table, fun e => clear e.handsOnClear⟩
  exact of_list allIx _ _ (by rw [State.resetReleased])

theorem State.channelReset_eq (s : State) (c : Channel) :
    s.channelReset c = (s.resetReleased c).1.examineTags (s.tagsOf fun t => t.owner == c && t.resetTouches)
      (s.resetReleased c).2 := by
  simp only [State.channelReset, State.resetReleased, State.resetDetached, State.resetFreed]

/-- A channel reset keeps every invariant (R71, R142). -/
theorem State.channelReset_kept (s : State) (c : Channel) : s.LeaseKept (s.channelReset c) := by
  have detached : s.LeaseKept (s.resetDetached c) :=
    (s.resetFreed_kept c).trans (State.resetDetach_foldl (s.resetFreed_claimsFly c) allIx)
  obtain ⟨table, clear⟩ := s.resetReleased_kept c
  rw [State.channelReset_eq]
  refine ⟨(detached.toTableKept.trans table).trans (State.examineTags_table _ _ _), fun e => ?_⟩
  have released := clear (detached.exclusive e)
  exact State.examineTags_exclusive (s.tagsOf_nodup _) released.2 released.1

end Sys2Proof.Machine

namespace Sys2Proof.Machine

open Host.Outcome

/-! ### The Station Controller, the line and the ports change no tenancy -/

theorem State.modifyStation_kept (s : State) (f : StationRecord → StationRecord) : s.LeaseKept (s.modifyStation f) :=
  State.leaseKept_of_blocks rfl rfl rfl rfl

theorem State.modifyLine_kept (s : State) (f : LineInterface → LineInterface) : s.LeaseKept (s.modifyLine f) :=
  State.leaseKept_of_blocks rfl rfl rfl rfl

theorem State.modifyFrames_kept (s : State) (f : FrameProcessor → FrameProcessor) : s.LeaseKept (s.modifyFrames f) :=
  State.leaseKept_of_blocks rfl rfl rfl rfl

theorem State.setSendList_kept (s : State) (l : List SendItem) : s.LeaseKept (s.setSendList l) :=
  State.leaseKept_of_blocks rfl rfl rfl rfl

theorem State.setTaken_kept (s : State) (x : StationState) : s.LeaseKept (s.setTaken x) :=
  State.leaseKept_of_blocks rfl rfl rfl rfl

theorem State.setChanges_kept (s : State) (cs : List StationState) : s.LeaseKept (s.setChanges cs) :=
  State.leaseKept_of_blocks rfl rfl rfl rfl

theorem State.answer_kept (s : State) (ch : Channel) (code echo : Byte) (status : Status) (values : ResultValues) :
    s.LeaseKept (s.answer ch code echo status values) :=
  s.leaseKept_modifyChannel _ _ (ChannelState.keepsNotices_of_deferral rfl)

theorem State.raiseStation_kept (s : State) (c : RoutingClass) (r : EventRecord) : s.LeaseKept (s.raiseStation c r) :=
  s.leaseKept_modifyChannel _ _ (ChannelState.raise_keepsNotices _ _ _)

theorem State.raiseVoid_kept (s : State) (c : Channel) : s.LeaseKept (s.raiseVoid c) :=
  s.leaseKept_modifyChannel _ _ (ChannelState.raise_keepsNotices _ _ _)

theorem State.tellLease_kept (s : State) (x : StationState) : s.LeaseKept (s.tellLease x) := by
  unfold State.tellLease
  split
  · exact s.setTaken_kept _
  · exact s.setChanges_kept _

theorem State.addCensus_kept (s : State) : s.LeaseKept s.addCensus := by
  unfold State.addCensus
  split
  · exact (s.modifyStation_kept _).trans (State.setSendList_kept _ _)
  · exact .refl s

theorem State.enterDown_kept (s : State) (cause : RingCause) : s.LeaseKept (s.enterDown cause) := by
  unfold State.enterDown
  split
  · exact (s.modifyStation_kept _).trans ((State.raiseStation_kept _ _ _).trans (State.tellLease_kept _ _))
  · exact .refl s

theorem State.enterHalted_kept (s : State) : s.LeaseKept s.enterHalted := by
  unfold State.enterHalted
  split
  · exact (s.modifyStation_kept _).trans ((State.setSendList_kept _ _).trans
      ((State.raiseStation_kept _ _ _).trans (State.tellLease_kept _ _)))
  · exact .refl s

theorem State.enterUp_kept (s : State) (members : List Member) (cause : RingCause) : s.LeaseKept (s.enterUp members cause) :=
  (s.modifyStation_kept _).trans ((State.raiseStation_kept _ _ _).trans (State.tellLease_kept _ _))

theorem State.raiseMembership_kept (s : State) (previous members : List Member) :
    s.LeaseKept (s.raiseMembership previous members) := by
  unfold State.raiseMembership
  split
  · exact .refl s
  · exact s.raiseStation_kept _ _

theorem State.reportDamaged_kept (s : State) : s.LeaseKept s.reportDamaged := by
  have warned (u : State) (r : EventRecord) : s.LeaseKept u → s.LeaseKept
      ((u.modifyStation ({ · with faultWarning := true })).raiseStation .faults r) := fun h =>
    h.trans ((State.modifyStation_kept _ _).trans (State.raiseStation_kept _ _ _))
  have scored := s.modifyStation_kept ({ · with faultScore := scoreDamaged s.station.faultScore })
  unfold State.reportDamaged
  dsimp only
  split
  · split
    · exact (warned _ _ scored).trans (State.enterDown_kept _ _)
    · exact scored.trans (State.enterDown_kept _ _)
  · split
    · exact warned _ _ scored
    · exact scored

theorem State.reportIntact_kept (s : State) : s.LeaseKept s.reportIntact := by
  unfold State.reportIntact
  dsimp only
  split
  · exact (s.modifyStation_kept _).trans ((State.modifyStation_kept _ _).trans (State.raiseStation_kept _ _ _))
  · exact s.modifyStation_kept _

theorem State.adoptCensus_kept (s : State) (members : List Member) : s.LeaseKept (s.adoptCensus members) := by
  unfold State.adoptCensus
  split
  · exact s.enterUp_kept _ _
  · exact (s.modifyStation_kept _).trans (State.raiseMembership_kept _ _ _)
  · split
    · exact (s.enterUp_kept _ _).trans (State.raiseMembership_kept _ _ _)
    · exact s.modifyStation_kept _
  all_goals exact .refl s

theorem State.censusReturn_kept (s : State) (serial : Byte) (members : List Member) :
    s.LeaseKept (s.censusReturn serial members) := by
  unfold State.censusReturn
  split
  · split
    · dsimp only
      split
      · exact (s.modifyStation_kept _).trans (State.enterHalted_kept _)
      · exact (s.modifyStation_kept _).trans (State.adoptCensus_kept _ _)
    · exact .refl s
  all_goals exact .refl s

theorem State.intoTransit_kept (s : State) (ws : List Word) : s.LeaseKept (s.intoTransit ws) := by
  unfold State.intoTransit
  split
  · exact s.modifyLine_kept _
  · exact .refl s

/-! ### Arrivals (R79 to R84) -/

theorem State.passFrame_kept (s : State) (f : Frame) (ws : List Word) : s.LeaseKept (s.passFrame f ws) := by
  unfold State.passFrame
  split
  · exact (s.claimPasses_kept _ _ _ _ _).trans (State.intoTransit_kept _ _)
  · exact (s.releasePasses_kept _).trans (State.intoTransit_kept _ _)
  · next members _ =>
    have halted : s.LeaseKept (if s.listsDuplicate members = true then s.enterHalted else s) := by
      split
      · exact s.enterHalted_kept
      · exact .refl s
    dsimp only
    split
    · exact halted
    · exact halted.trans (State.intoTransit_kept _ _)

theorem State.foreignFrame_kept (s : State) (f : Frame) (ws : List Word) : s.LeaseKept (s.foreignFrame f ws) := by
  have reported : s.LeaseKept (if s.ownNumber f then s.enterHalted else s) := by
    split
    · exact s.enterHalted_kept
    · exact .refl s
  have drawn (u : State) : u.LeaseKept (if s.reportsDuplicate f then u.drawOrder else u) := by
    split
    · exact u.drawOrder_kept
    · exact .refl u
  unfold State.foreignFrame
  dsimp only
  split
  · exact reported
  · exact reported.trans ((drawn _).trans (State.passFrame_kept _ _ _))

theorem State.ownReturn_kept (s : State) (f : Frame) : s.LeaseKept (s.ownReturn f) := by
  unfold State.ownReturn
  split
  · exact s.claimReturn_kept _ _ _ _ _
  · exact s.releaseReturn_kept _ _
  · exact s.censusReturn_kept _ _

theorem State.takeArrival_kept (s : State) (a : Arrival) : s.LeaseKept (s.takeArrival a) := by
  unfold State.takeArrival
  split
  · exact s.reportDamaged_kept
  · dsimp only
    split
    · exact s.reportIntact_kept.trans (State.ownReturn_kept _ _)
    · exact s.reportIntact_kept.trans (State.foreignFrame_kept _ _ _)

theorem State.judgeNext_kept (s : State) (a : Arrival) (rest : List Arrival) : s.LeaseKept (s.judgeNext a rest) := by
  unfold State.judgeNext
  dsimp only
  split
  · exact (s.modifyFrames_kept _).trans (State.takeArrival_kept _ _)
  · exact s.modifyFrames_kept _

theorem State.judgeWaiting_kept (l : List Arrival) (s : State) : s.LeaseKept (State.judgeWaiting l s) := by
  induction l generalizing s with
  | nil => exact .refl s
  | cons a l ih => exact (s.judgeNext_kept a l).trans (ih _)

/-! ### LEAVE and START (R107, R121) -/

theorem State.freeEntries_tenancy (s : State) (i : EntryIx) : s.freeEntries.tenancy i = none := by
  simp [State.freeEntries, LeaseTable.freeAll, State.tenancy, State.entry, Vector.get_eq_getElem]

theorem State.freeEntries_channel (s : State) (c : Channel) :
    s.freeEntries.channel c = { s.channel c with deferral := (s.channel c).deferral.filter DeferralItem.isMarker } := by
  simp [State.freeEntries, State.channel, Vector.get_eq_getElem]

theorem State.freeEntries_kept (s : State) : s.LeaseKept s.freeEntries := by
  have free := s.freeEntries_tenancy
  refine ⟨⟨rfl, ?_, fun _ => ⟨List.nodup_nil, ?_⟩, fun e => ⟨fun c => ⟨?_, ?_, ?_⟩, ?_⟩, ?_, ?_, ?_⟩, ?_⟩
  case refine_3 => rw [s.freeEntries_channel]; simp [List.filter_filter]
  case refine_4 => rw [s.freeEntries_channel]; exact ChannelState.oneMarker_filter (e.1 c).2.1 DeferralItem.isMarker
  case refine_5 => rw [s.freeEntries_channel]; simp [free]
  case refine_2 => intro i; rw [free]; exact iff_of_false List.not_mem_nil (by simp)
  all_goals simp [free, State.AttachmentLaw, State.EntriesInRange, State.EntryTimers, State.Exclusive]

theorem State.bypassClosed_kept (s : State) : s.LeaseKept s.bypassClosed :=
  (s.modifyLine_kept _).trans ((State.modifyStation_kept _ _).trans (State.setTaken_kept _ _))

theorem State.lineLeave_kept (s : State) : s.LeaseKept s.lineLeave := by
  have emptied := (s.modifyLine_kept ({ · with detector := .silent, receiver := .between, transit := [] })).trans
    (State.modifyFrames_kept _ ({ · with arrivals := [] }))
  unfold State.lineLeave
  dsimp only
  split
  · exact emptied.trans (State.modifyLine_kept _ _)
  · exact emptied.trans (State.bypassClosed_kept _)
  · exact emptied.trans (State.bypassClosed_kept _)
  · exact emptied.trans (State.bypassClosed_kept _)
  all_goals exact .refl s

theorem State.takeLeave_kept (s : State) : s.LeaseKept s.takeLeave := by
  unfold State.takeLeave
  exact (((s.modifyStation_kept _).trans ((State.freeEntries_kept _).trans ((State.setSendList_kept _ _).trans
    (State.modifyStation_kept _ _)))).trans ((State.raiseVoid_kept _ _).trans ((State.raiseVoid_kept _ _).trans
    ((State.raiseVoid_kept _ _).trans (State.raiseVoid_kept _ _))))).trans
    ((State.raiseStation_kept _ _ _).trans (State.lineLeave_kept _))

theorem State.takeStart_kept (s : State) : s.LeaseKept s.takeStart := by
  unfold State.takeStart
  exact (s.modifyStation_kept _).trans ((State.raiseStation_kept _ _ _).trans ((State.setTaken_kept _ _).trans
    (State.modifyLine_kept _ _)))

/-! ### Origination (R27, R63, R97) -/

theorem State.originate_kept (s : State) (body : FrameBody) : s.LeaseKept (s.originate body) :=
  (s.modifyLine_kept _).trans (State.modifyFrames_kept _ _)

theorem Tenancy.claimQueued_iff {v : Tenancy} : v.claimQueued = true ↔ ∃ lost, v.state = .claiming .queued lost := by
  unfold Tenancy.claimQueued
  split <;> simp_all

/-- A claim taken from the send list goes into flight, its attempt counted (R27). -/
theorem Tenancy.Follows.claimSent (config : ConfigStore) {v : Tenancy} {lost : Bool} (h : v.state = .claiming .queued lost)
    (serial : Byte) : v.Follows config (Tenancy.claimSent serial config.settings.circuitTimeout v) where
  owner := rfl
  tag := rfl
  mode := rfl
  attached := id
  attachment := fun _ => trivial
  range := fun ⟨h1, h2, h3, _, h5, h6, h7⟩ => ⟨h1, h2, h3, by rw [h] at h7; exact h7, h5, h6, trivial⟩
  timer := fun c _ => (Settings.inRange_bounds c).2.1

theorem Tenancy.Follows.releaseSent (config : ConfigStore) {v : Tenancy} (h : v.state = .releasing .queued) (serial : Byte) :
    v.Follows config (Tenancy.releaseSent serial config.settings.circuitTimeout v) where
  owner := rfl
  tag := rfl
  mode := rfl
  attached := id
  attachment := by simp [Tenancy.AttachmentFollows, h, Tenancy.releaseSent]
  range := fun ⟨h1, h2, h3, h4, h5, h6, _⟩ => ⟨h1, h2, h3, h4, h5, h6, trivial⟩
  timer := fun c _ => (Settings.inRange_bounds c).2.1

theorem State.originateItem_kept (s : State) (item : SendItem) : s.LeaseKept (s.originateItem item) := by
  cases item with
  | claim i =>
    unfold State.originateItem
    dsimp only
    split
    · exact .refl s
    · next v h =>
      split
      · next queued =>
        obtain ⟨lost, hs⟩ := Tenancy.claimQueued_iff.1 queued
        exact (s.originate_kept v.claimBody).trans (State.modifyTenancy_kept (s := s.originate v.claimBody) h (.claimSent _ hs _) rfl
          (by simp [Tenancy.claimSent]) (by simp [Tenancy.claimSent, hs])
          (by simp [Tenancy.isActive, Tenancy.blocks, hs]) (by simp [Tenancy.isHeld, hs, EntryState.name]))
      · exact .refl s
  | release i =>
    unfold State.originateItem
    dsimp only
    split
    · exact .refl s
    · next v h =>
      split
      · next hs =>
        exact (s.originate_kept (.release v.tag)).trans (State.modifyTenancy_kept (s := s.originate (.release v.tag)) h (.releaseSent _ hs _) rfl
          (by simp [Tenancy.releaseSent]) (by simp [Tenancy.releaseSent, hs])
          (by simp [Tenancy.isActive, Tenancy.blocks, hs]) (by simp [Tenancy.isHeld, hs, EntryState.name]))
      · exact .refl s
  | census =>
    unfold State.originateItem
    exact (s.originate_kept _).trans (State.modifyStation_kept _ _)

theorem State.boundary_kept (s : State) : s.LeaseKept s.boundary := by
  unfold State.boundary
  split
  · exact (s.modifyLine_kept _).trans (State.modifyLine_kept _ _)
  · split
    · exact (s.setSendList_kept _).trans (State.originateItem_kept _ _)
    · exact s.modifyLine_kept _

/-! ### Words received and silence (R93 to R95) -/

theorem State.receive_kept (s : State) (w : LineWord) : s.LeaseKept (s.receive w) := by
  have completed (store : List Word) (v o c : Bool) (r : Receiver) :
      s.LeaseKept ((s.completeFrame store v o c).setReceiver r) := (s.modifyFrames_kept _).trans (State.modifyLine_kept _ _)
  unfold State.receive
  split
  · split
    · exact s.modifyLine_kept _
    all_goals exact .refl s
  · split
    · split <;> exact s.modifyLine_kept _
    · exact s.modifyLine_kept _
    all_goals exact completed _ _ _ _ _

theorem State.reportPresent_kept (s : State) : s.LeaseKept s.reportPresent := by
  unfold State.reportPresent
  split
  · exact s.addCensus_kept
  · exact .refl s

theorem State.detectWord_kept (s : State) : s.LeaseKept s.detectWord := by
  have seen := s.modifyLine_kept ({ · with detector := .present Config.silenceMicros })
  unfold State.detectWord
  dsimp only
  split
  · exact seen.trans (State.reportPresent_kept _)
  · exact seen

theorem State.becomeSilent_kept (s : State) : s.LeaseKept s.becomeSilent := by
  unfold State.becomeSilent
  dsimp only
  refine State.LeaseKept.trans ?_ ((State.modifyLine_kept _ _).trans (State.enterDown_kept _ _))
  split
  · exact .refl s
  · exact (s.modifyFrames_kept _).trans (State.modifyLine_kept _ _)

/-! ### The 1 ms tick (R11) -/

/-- The same change at every tenancy, which keeps slots, states by name and attachment. -/
theorem State.leaseKept_of_map {s t : State} {f : Tenancy → Tenancy} (config : t.config = s.config)
    (tenancies : ∀ i, t.tenancy i = (s.tenancy i).map f) (waiting : t.lease.waiting = s.lease.waiting)
    (channels : t.channels = s.channels) (follows : ∀ v : Tenancy, v.Follows s.config (f v))
    (slot : ∀ v, (f v).deferred = v.deferred) (attached : ∀ v, (f v).attached = v.attached)
    (name : ∀ v, (f v).state.name = v.state.name) : s.LeaseKept t := by
  have before {i : EntryIx} {u : Tenancy} (hu : t.tenancy i = some u) : ∃ v, s.tenancy i = some v ∧ f v = u := by
    rw [tenancies] at hu; exact Option.map_eq_some_iff.1 hu
  have active (v : Tenancy) : (f v).isActive = v.isActive := by
    have := name v
    cases h : v.state <;> cases h' : (f v).state <;>
      simp_all [Tenancy.isActive, Tenancy.isHeld, Tenancy.blocks, EntryState.name]
  have held (v : Tenancy) : (f v).isHeld = v.isHeld := by simp [Tenancy.isHeld, name]
  have queued (v : Tenancy) : (f v).state = .queuedLocal ↔ v.state = .queuedLocal := by
    rw [← Tenancy.isQueued_iff, ← Tenancy.isQueued_iff]; simp [Tenancy.isQueued, name]
  refine ⟨⟨config, fun i u hu => ?_, fun e => ⟨waiting ▸ e.1, fun i => ?_⟩, fun e => ⟨fun c => ?_, fun i u hu hs => ?_⟩,
    fun law => ⟨fun i u hu => ?_, fun i j u w hij hu hw au aw o => ?_⟩, fun r i u hu => ?_, fun c r i u hu => ?_⟩,
    fun e i j u w hij hu hw hg au aw => ?_⟩
  · obtain ⟨v, hv, rfl⟩ := before hu; exact ⟨v, hv, (follows v).owner⟩
  · rw [waiting, e.2 i, tenancies]; simp [queued]
  · rw [show t.channel c = s.channel c by simp [State.channel, channels]]
    refine ⟨(e.1 c).1, (e.1 c).2.1, fun i => ?_⟩
    rw [(e.1 c).2.2 i, tenancies]; simp [slot, (follows _).owner]
  · obtain ⟨v, hv, rfl⟩ := before hu
    have closing : v.state = .closing := by
      have := name v
      cases h : v.state <;> simp_all [EntryState.name]
    rw [slot]; exact e.2 i v hv closing
  · obtain ⟨v, hv, rfl⟩ := before hu; exact (follows v).attachment (law.1 i v hv)
  · obtain ⟨v, hv, rfl⟩ := before hu
    obtain ⟨x, hx, rfl⟩ := before hw
    rw [(follows v).tag, (follows x).tag]
    exact law.2 i j v x hij hv hx (attached v ▸ au) (attached x ▸ aw) (by rw [← (follows v).owner, ← (follows x).owner, o])
  · obtain ⟨v, hv, rfl⟩ := before hu
    simp only [State.limits, config, (follows v).owner]; exact (follows v).range (r i v hv)
  · obtain ⟨v, hv, rfl⟩ := before hu; exact (follows v).timer c (r i v hv)
  · obtain ⟨v, hv, rfl⟩ := before hu
    obtain ⟨x, hx, rfl⟩ := before hw
    rw [held, held, (follows v).mode, (follows x).mode]
    exact e i j v x hij hv hx (by rw [← (follows v).tag, ← (follows x).tag, hg]) (active v ▸ au) (active x ▸ aw)

theorem Tenancy.Follows.tick (config : ConfigStore) (v : Tenancy) : v.Follows config { v with state := v.state.tick } where
  owner := rfl
  tag := rfl
  mode := rfl
  attached := id
  attachment := by
    cases h : v.state with
    | claiming phase lost => cases phase <;> simp [Tenancy.AttachmentFollows, EntryState.tick, FramePhase.tick, h]
    | _ => simp [Tenancy.AttachmentFollows, EntryState.tick, h]
  range := fun ⟨h1, h2, h3, h4, h5, h6, h7⟩ => ⟨h1, h2, h3, h4, h5, h6, by
    cases h : v.state with
    | claiming phase lost => cases phase <;> simp_all [EntryState.tick, FramePhase.tick]
    | _ => simp_all [EntryState.tick]⟩
  timer := fun _ ht => by
    cases h : v.state with
    | claiming phase lost =>
      cases phase with
      | queued => trivial
      | inFlight serial circuit => rw [h] at ht; exact Nat.le_trans (Nat.sub_le _ _) ht
    | releasing phase =>
      cases phase with
      | queued => trivial
      | inFlight serial circuit => rw [h] at ht; exact Nat.le_trans (Nat.sub_le _ _) ht
    | backoff timer => rw [h] at ht; exact Nat.le_trans (Nat.sub_le _ _) ht
    | _ => trivial

theorem EntryState.tick_name (x : EntryState) : x.tick.name = x.name := by cases x <;> rfl

theorem State.milliTick_tenancy (s : State) (i : EntryIx) :
    s.milliTick.tenancy i = (s.tenancy i).map fun v => { v with state := v.state.tick } := by
  simp [State.milliTick, State.tenancy, State.entry, Vector.get_eq_getElem, Entry.tick]

theorem State.milliTick_kept (s : State) : s.LeaseKept s.milliTick :=
  State.leaseKept_of_map rfl s.milliTick_tenancy rfl rfl (fun v => .tick _ v) (fun _ => rfl) (fun _ => rfl)
    fun v => v.state.tick_name

theorem State.wordTime_blocks (s : State) :
    s.wordTime.config = s.config ∧ s.wordTime.lease = s.lease ∧ s.wordTime.channels = s.channels := by
  unfold State.wordTime
  repeat' split
  all_goals exact ⟨rfl, rfl, rfl⟩

theorem State.clockPeriod_kept (s : State) : s.LeaseKept s.clockPeriod := by
  have counted (p : Nat) : s.LeaseKept { s with time := { s.time with phase := p } } :=
    State.leaseKept_of_blocks rfl rfl rfl rfl
  have word (p : Nat) (u : State) : u.LeaseKept (if p % Config.clocksPerWord = 0 then u.wordTime else u) := by
    obtain ⟨config, lease, channels⟩ := u.wordTime_blocks
    split
    · exact State.leaseKept_of_blocks config (by rw [lease]) (by rw [lease]) channels
    · exact .refl u
  have micro (p : Nat) (u : State) : u.LeaseKept (if p % Config.clocksPerMicro = 0 then u.microTick else u) := by
    split
    · exact State.leaseKept_of_blocks rfl rfl rfl rfl
    · exact .refl u
  have milli (p : Nat) (u : State) : u.LeaseKept (if p = 0 then u.milliTick else u) := by
    split
    · exact u.milliTick_kept
    · exact .refl u
  exact (counted _).trans ((word _ _).trans ((micro _ _).trans (milli _ _)))

theorem State.idle_kept (s : State) : s.LeaseKept s.idle := by
  unfold State.idle
  split
  · exact State.leaseKept_of_blocks rfl rfl rfl rfl
  · exact s.clockPeriod_kept

end Sys2Proof.Machine

namespace Sys2Proof.Machine

open Host.Outcome

/-! ### Acceptance in the words of R18 to R20 -/

theorem State.openedAt_tenancy (s : State) (i : EntryIx) (t : Tenancy) : (s.openedAt i t).tenancy i = some t := by
  simp [State.openedAt]

theorem State.openedAt_modifyTenancy (s : State) (i : EntryIx) (t : Tenancy) (f : Tenancy → Tenancy) :
    (s.openedAt i t).modifyTenancy i f = s.openedAt i (f t) := by
  have opened : (s.openedAt i t).tenancy i = some t := by simp [State.openedAt]
  rw [State.modifyTenancy_of_some opened]
  simp [State.openedAt, State.setEntry_setEntry]

/-- Behind a waiter, or where case 1 or the waiting of case 2 applies, a new claim waits (R18, R19). -/
theorem State.accept_waits {s : State} {t : Tenancy} (i : EntryIx) (h : s.waitList t.tag = [] →
      s.acceptance t.tag t.mode = .blocked ∨ s.acceptance t.tag t.mode = .wait) :
    s.accept i t = ((s.openedAt i t).setWaiting (s.lease.waiting ++ [i]), .queued) := by
  unfold State.accept
  by_cases w : s.waitList t.tag = []
  · rcases h w with a | a <;> simp only [w, a, List.isEmpty_nil, if_true] <;> rfl
  · rw [if_neg (by simpa using w)]; rfl

/-- A SHARED claim joins SHARED holders (R19). -/
theorem State.accept_joins {s : State} {t : Tenancy} (i : EntryIx) (w : s.waitList t.tag = [])
    (h : s.acceptance t.tag t.mode = .join) :
    s.accept i t = ((s.openedAt i t.enterHeld).raiseLease i (.granted t.mode) {}, .grantedNow) := by
  have opened : (s.openTenancy i t).tenancy i = some t := by simp [State.openTenancy]
  simp only [State.accept, w, h, List.isEmpty_nil, if_true, State.grant, opened]
  exact congrArg (fun x : State => (x.raiseLease i (.granted t.mode) {}, Status.grantedNow))
    (s.openedAt_modifyTenancy i t Tenancy.enterHeld)

/-- On a tag without an active entry a new claim goes to the ring (R20). -/
theorem State.accept_claims {s : State} {t : Tenancy} (i : EntryIx) (w : s.waitList t.tag = [])
    (h : s.acceptance t.tag t.mode = .claim) :
    s.accept i t =
      ((s.openedAt i { t with state := .claiming .queued false }).setSendList (s.frames.sendList ++ [.claim i]),
        .accepted) := by
  simp only [State.accept, w, h, List.isEmpty_nil, if_true, State.enterClaiming]
  exact congrArg (fun x : State => (x.setSendList (s.frames.sendList ++ [.claim i]), Status.accepted))
    (s.openedAt_modifyTenancy i t _)

/-! ### The opening of a tenancy (R4) -/

/-- A tenancy is opened in a FREE entry: attached where its channel has no attached entry on the tag, its fields in range,
its slot empty, and on its tag it stands beside no conflicting entry. -/
structure State.Opens (s : State) (i : EntryIx) (u : Tenancy) (t : State) : Prop where
  free : s.LowestFree i
  after : t.tenancy i = some u
  generation : (t.entry i).generation = (s.entry i).generation + 1
  others : ∀ j, j ≠ i → t.entry j = s.entry j
  config : t.config = s.config
  channels : t.channels = s.channels
  station : t.station = s.station
  line : t.line = s.line
  slot : u.deferred = none
  attached : u.attached = true
  alone : ¬ s.AttachedOn u.owner u.tag
  quota : s.nonFree u.owner < (s.limits u.owner).quota
  range : u.InRange (s.limits u.owner)
  up : s.station.state = .up ∧ s.station.leaving = false
  place : (u.state = .queuedLocal ∧ t.lease.waiting = s.lease.waiting ++ [i]) ∨
    ((u.state = .claiming .queued false ∨ ∃ remaining, u.state = .held remaining false) ∧ t.lease.waiting = s.lease.waiting)
  beside : u.isActive = true → ∀ j w, j ≠ i → s.tenancy j = some w → w.tag = u.tag → w.isActive = true →
    u.isHeld = true ∧ u.mode = .shared ∧ w.isHeld = true ∧ w.mode = .shared

theorem State.Opens.others_tenancy {s t : State} {i : EntryIx} {u : Tenancy} (h : s.Opens i u t) {j : EntryIx} (ne : j ≠ i) :
    t.tenancy j = s.tenancy j := by simp [State.tenancy, h.others j ne]

theorem State.Opens.wait {s t : State} {i : EntryIx} {u : Tenancy} (h : s.Opens i u t) (e : s.WaitListsExact) :
    t.WaitListsExact := by
  have absent : i ∉ s.lease.waiting := fun m => by
    obtain ⟨v, hv, -⟩ := (e.2 i).1 m
    simp [h.free.1] at hv
  rcases h.place with ⟨waits, list⟩ | ⟨runs, list⟩
  · refine ⟨list ▸ e.1.append (List.nodup_singleton i) (by simpa using absent), fun j => ?_⟩
    rw [list, List.mem_append, e.2 j]
    by_cases ej : j = i
    · subst ej; simp [h.after, waits]
    · simp [h.others_tenancy ej, ej]
  · refine ⟨list ▸ e.1, fun j => ?_⟩
    rw [list]
    by_cases ej : j = i
    · subst ej
      have : u.state ≠ .queuedLocal := by rcases runs with r | ⟨_, r⟩ <;> simp [r]
      simp [h.after, absent, this]
    · rw [h.others_tenancy ej, e.2 j]

theorem State.Opens.open_ {s t : State} {i : EntryIx} {u : Tenancy} (h : s.Opens i u t) : u.state ≠ .closing := by
  rcases h.place with ⟨r, -⟩ | ⟨r | ⟨_, r⟩, -⟩ <;> simp [r]

theorem State.Opens.defer {s t : State} {i : EntryIx} {u : Tenancy} (h : s.Opens i u t) (e : s.DeferralExact) :
    t.DeferralExact := by
  refine ⟨fun c => ?_, fun j w hw closing => ?_⟩
  · rw [show t.channel c = s.channel c by simp [State.channel, h.channels]]
    refine ⟨(e.1 c).1, (e.1 c).2.1, fun j => ?_⟩
    rw [(e.1 c).2.2 j]
    by_cases ej : j = i
    · subst ej; simp [h.after, h.free.1, h.slot]
    · rw [h.others_tenancy ej]
  · by_cases ej : j = i
    · subst ej
      rw [h.after] at hw
      exact absurd (Option.some.inj hw ▸ closing) h.open_
    · rw [h.others_tenancy ej] at hw; exact e.2 j w hw closing

theorem State.Opens.attach {s t : State} {i : EntryIx} {u : Tenancy} (h : s.Opens i u t) (law : s.AttachmentLaw) :
    t.AttachmentLaw := by
  have other {j : EntryIx} {w : Tenancy} (hw : t.tenancy j = some w) : (j = i ∧ w = u) ∨ (j ≠ i ∧ s.tenancy j = some w) := by
    by_cases ej : j = i
    · subst ej; rw [h.after] at hw; exact .inl ⟨rfl, (Option.some.inj hw).symm⟩
    · rw [h.others_tenancy ej] at hw; exact .inr ⟨ej, hw⟩
  refine ⟨fun j w hw => ?_, fun j k w x hjk hw hx aw ax o g => ?_⟩
  · rcases other hw with ⟨rfl, rfl⟩ | ⟨-, hw⟩
    · rcases h.place with ⟨r, -⟩ | ⟨r | ⟨_, r⟩, -⟩ <;> simp [Tenancy.AttachmentFollows, r, h.attached]
    · exact law.1 j w hw
  · rcases other hw with ⟨rfl, rfl⟩ | ⟨-, hw⟩
    · rcases other hx with ⟨rfl, -⟩ | ⟨-, hx⟩
      · exact hjk rfl
      · exact h.alone ⟨k, x, hx, o.symm, ax, g.symm⟩
    · rcases other hx with ⟨rfl, rfl⟩ | ⟨-, hx⟩
      · exact h.alone ⟨j, w, hw, o, aw, g⟩
      · exact law.2 j k w x hjk hw hx aw ax o g

theorem State.Opens.exclusive {s t : State} {i : EntryIx} {u : Tenancy} (h : s.Opens i u t) (e : s.Exclusive) :
    t.Exclusive := fun j k w x hjk hw hx g aw ax => by
  by_cases ej : j = i
  · subst ej
    rw [h.after] at hw; obtain rfl := Option.some.inj hw
    rw [h.others_tenancy hjk.symm] at hx
    obtain ⟨a, b, c, d⟩ := h.beside aw k x hjk.symm hx g.symm ax
    exact ⟨a, c, b, d⟩
  · rw [h.others_tenancy ej] at hw
    by_cases ek : k = i
    · subst ek
      rw [h.after] at hx; obtain rfl := Option.some.inj hx
      obtain ⟨a, b, c, d⟩ := h.beside ax j w hjk hw g aw
      exact ⟨c, a, d, b⟩
    · rw [h.others_tenancy ek] at hx
      exact e j k w x hjk hw hx g aw ax

theorem State.Opens.entriesInRange {s t : State} {i : EntryIx} {u : Tenancy} (h : s.Opens i u t) (r : s.EntriesInRange) :
    t.EntriesInRange := fun j w hw => by
  simp only [State.limits, h.config]
  by_cases ej : j = i
  · subst ej; rw [h.after] at hw; exact Option.some.inj hw ▸ h.range
  · rw [h.others_tenancy ej] at hw; exact r j w hw

theorem State.Opens.entryTimers {s t : State} {i : EntryIx} {u : Tenancy} (h : s.Opens i u t) (r : s.EntryTimers) :
    t.EntryTimers := fun j w hw => by
  by_cases ej : j = i
  · subst ej; rw [h.after] at hw; obtain rfl := Option.some.inj hw
    rcases h.place with ⟨x, -⟩ | ⟨x | ⟨_, x⟩, -⟩ <;> rw [x] <;> trivial
  · rw [h.others_tenancy ej] at hw; exact r j w hw

/-! ### CLAIM (R151) -/

/-- What a CLAIM that passes its checks has shown. -/
theorem State.checkClaim_inv {s : State} {ch : Channel} {tag : Tag} {mode : Byte} {priority term limit : Nat} {m : Mode}
    (h : s.checkClaim ch tag mode priority term limit = .ok m) :
    (s.station.state = .up ∧ s.station.leaving = false) ∧ claimNumbersInRange (s.limits ch) priority term limit = true ∧
      ¬ s.AttachedOn ch tag ∧ s.nonFree ch < (s.limits ch).quota := by
  unfold State.checkClaim at h
  split at h
  · cases h
  · next up =>
    split at h
    · cases h
    · split at h
      · cases h
      · next numbers =>
        split at h
        · cases h
        · split at h
          · cases h
          · split at h
            · cases h
            · next alone =>
              split at h
              · cases h
              · next quota =>
                simp only [ne_eq, not_or, not_not, Bool.not_eq_true] at up
                exact ⟨up, by simpa using numbers, by rwa [← State.hasAttached_iff], Nat.lt_of_not_le quota⟩

theorem newTenancy_inRange {l : Limits} {ch : Channel} {tag : Tag} {m : Mode} {priority term limit : Nat}
    (h : claimNumbersInRange l priority term limit = true) (x : EntryState) (hx : x = .queuedLocal ∨
      x = .claiming .queued false ∨ x = .held term false) :
    ({ newTenancy ch tag m priority term limit with state := x } : Tenancy).InRange l := by
  simp only [claimNumbersInRange, Bool.and_eq_true, decide_eq_true_eq] at h
  obtain ⟨⟨⟨⟨h1, h2⟩, h3⟩, h4⟩, h5⟩ := h
  refine ⟨h1, h4, h5, Nat.zero_le _, h2, h3, ?_⟩
  rcases hx with rfl | rfl | rfl
  · rfl
  · exact h4
  · exact Nat.le_refl _

theorem State.opens_openedAt {s : State} {i : EntryIx} {u : Tenancy} (free : s.LowestFree i)
    (up : s.station.state = .up ∧ s.station.leaving = false)
    (slot : u.deferred = none) (attached : u.attached = true) (alone : ¬ s.AttachedOn u.owner u.tag)
    (quota : s.nonFree u.owner < (s.limits u.owner).quota) (range : u.InRange (s.limits u.owner))
    (place : u.state = .claiming .queued false ∨ ∃ remaining, u.state = .held remaining false)
    (beside : u.isActive = true → ∀ j w, j ≠ i → s.tenancy j = some w → w.tag = u.tag → w.isActive = true →
      u.isHeld = true ∧ u.mode = .shared ∧ w.isHeld = true ∧ w.mode = .shared) : s.Opens i u (s.openedAt i u) where
  free := free
  up := up
  after := by simp [State.openedAt]
  generation := by simp [State.openedAt]
  others := fun j ne => by simp [State.openedAt, State.setEntry_entry, Ne.symm ne]
  config := rfl
  channels := rfl
  station := rfl
  line := rfl
  slot := slot
  attached := attached
  alone := alone
  quota := quota
  range := range
  place := .inr ⟨place, rfl⟩
  beside := beside

/-- An accepted CLAIM opens a tenancy in the lowest FREE entry; what follows raises a notice at most. -/
theorem State.accept_opens {s : State} {i : EntryIx} {ch : Channel} {tag : Tag} {mode : Byte} {priority term limit : Nat}
    {m : Mode} (checked : s.checkClaim ch tag mode priority term limit = .ok m) (free : s.LowestFree i) :
    ∃ u r, s.Opens i u r ∧ u.owner = ch ∧ u.tag = tag ∧ r.LeaseKept (s.accept i (newTenancy ch tag m priority term limit)).1 ∧
      r.LeaseWork (s.accept i (newTenancy ch tag m priority term limit)).1 ∧
      ∃ d, (s.accept i (newTenancy ch tag m priority term limit)).1.tenancy i = some { u with deferred := d } := by
  obtain ⟨up, numbers, alone, quota⟩ := State.checkClaim_inv checked
  have inv := s.acceptance_inv tag m
  by_cases waits : s.waitList tag = [] → s.acceptance tag m = .blocked ∨ s.acceptance tag m = .wait
  · refine ⟨newTenancy ch tag m priority term limit, (s.openedAt i (newTenancy ch tag m priority term limit)).setWaiting
      (s.lease.waiting ++ [i]), ?_, rfl, rfl, ?_, ?_, ?_⟩
    · exact ⟨free, by simp [State.openedAt], by simp [State.openedAt],
        fun j ne => by simp [State.openedAt, State.setEntry_entry, Ne.symm ne], rfl, rfl, rfl, rfl, rfl, rfl, alone, quota,
        newTenancy_inRange numbers _ (.inl rfl), up, .inl ⟨rfl, rfl⟩, fun active => by
          simp [Tenancy.isActive, Tenancy.isHeld, Tenancy.blocks, newTenancy, EntryState.name] at active⟩
    · rw [State.accept_waits i waits]; exact .refl _
    · rw [State.accept_waits i waits]; exact .refl _
    · rw [State.accept_waits i waits]; exact ⟨none, State.openedAt_tenancy _ _ _⟩
  · obtain ⟨list, runs⟩ := Classical.not_imp.mp waits
    cases acc : s.acceptance tag m with
    | blocked => simp [acc] at runs
    | wait => simp [acc] at runs
    | join =>
      rw [acc] at inv
      obtain ⟨blocked, -, rfl, exclusive⟩ := inv
      refine ⟨_, _, State.opens_openedAt (u := (newTenancy ch tag .shared priority term limit).enterHeld) free up rfl rfl
        alone quota (newTenancy_inRange numbers _ (.inr (.inr rfl))) (.inr ⟨_, rfl⟩) fun _ j w hj hw hg aw => ?_,
        rfl, rfl, ?_⟩
      · obtain ⟨-, held, shared⟩ := State.mayHold_of_join
          (v := (newTenancy ch tag .shared priority term limit).enterHeld) (i := i) blocked rfl exclusive j w hj hw hg aw
        exact ⟨rfl, rfl, held, shared⟩
      · rw [State.accept_joins i list acc]
        refine ⟨State.raiseLease_kept _ _ _ _, State.raiseLease_work _ _ _ _, ?_⟩
        obtain ⟨d, raised, -⟩ := (s.openedAt i (newTenancy ch tag .shared priority term limit).enterHeld).raiseLease_tenancy i i
          (.granted (newTenancy ch tag .shared priority term limit).mode) {}
        refine ⟨d, raised.trans ?_⟩
        rw [State.openedAt_tenancy, Option.map_some, if_pos rfl]
    | claim =>
      rw [acc] at inv
      refine ⟨_, _, State.opens_openedAt
        (u := { newTenancy ch tag m priority term limit with state := .claiming .queued false }) free up rfl rfl alone quota
        (newTenancy_inRange numbers _ (.inr (.inl rfl))) (.inl rfl) fun _ j w hj hw hg aw => ?_, rfl, rfl, ?_⟩
      · have := State.clearBut_of_free inv.1 inv.2 i j w hj hw hg
        simp [this] at aw
      · rw [State.accept_claims i list acc]
        exact ⟨State.setSendList_kept _ _, State.leaseWork_setSendList _ _, none, State.openedAt_tenancy _ _ _⟩

/-- What a CLAIM does: it changes its result slot alone, or it opens a tenancy first. -/
theorem State.execClaim_cases (s : State) (ch : Channel) (echo : Byte) (tag : Tag) (mode priority : Byte) (term : Word)
    (limit : Byte) : ∃ t, execClaim ch echo tag mode priority term limit s = next t ∧
      (t = s ∨ (∃ status, t = s.answer ch 0x10 echo status .nothing) ∨
        ∃ i u r x status values, s.Opens i u r ∧ u.owner = ch ∧ u.tag = tag ∧ r.LeaseKept x ∧ r.LeaseWork x ∧
          (∃ d, x.tenancy i = some { u with deferred := d }) ∧ t = x.answer ch 0x10 echo status values) := by
  refine ⟨_, rfl, ?_⟩
  unfold State.atPort
  split
  · exact .inl rfl
  · dsimp only
    split
    · exact .inr (.inl ⟨_, rfl⟩)
    · next checked =>
      split
      · exact .inr (.inl ⟨_, rfl⟩)
      · next i lowest =>
        obtain ⟨u, r, opens, owner, tag', kept, work, after⟩ := State.accept_opens checked ((s.lowestFree_iff i).1 lowest)
        exact .inr (.inr ⟨i, u, r, _, _, _, opens, owner, tag', kept, work, after, rfl⟩)

end Sys2Proof.Machine

namespace Sys2Proof.Machine

open Host.Outcome

/-! ### Commands at the ports (R147, R154, R164) -/

/-- A property of every outcome of an act at a port: it holds of the state unchanged and of what the act leaves. -/
theorem State.atPort_of {P : State → Prop} {s : State} {act : State → State} (same : P s) (acts : P (act s)) :
    P (s.atPort act) := by
  unfold State.atPort
  split
  · exact same
  · exact acts

theorem State.channel0Only_of {P : State → Prop} {s : State} {ch : Channel} {code echo : Byte} {act : State → State}
    (same : P s) (refused : ∀ status values, P (s.answer ch code echo status values)) (acts : P (act s)) :
    P (s.channel0Only ch code echo act) := by
  refine State.atPort_of same ?_
  split
  · exact acts
  · exact refused _ _

theorem State.configCommand_of {P : State → Prop} {s : State} {ch : Channel} {code echo : Byte} {act : State → State}
    (same : P s) (refused : ∀ status values, P (s.answer ch code echo status values))
    (acts : s.station.state = .offline → s.station.leaving = false → P (act s)) : P (s.configCommand ch code echo act) := by
  refine State.channel0Only_of same refused ?_
  split
  · next off => exact acts off.1 off.2
  · exact refused _ _

theorem State.resolve_inv {s : State} {ch : Channel} {index generation : Byte} {i : EntryIx} {t : Tenancy}
    (h : s.resolve ch index generation = .found i t) : s.Names ch index generation i t := by
  rcases s.handle_cases ch index generation with bad | gone | ⟨j, u, names⟩
  · rw [State.resolve_bad bad] at h; cases h
  · rw [State.resolve_gone gone] at h; cases h
  · rw [State.resolve_found names] at h; cases h; exact names

theorem State.handleCommand_of {P : State → Prop} {s : State} {ch : Channel} {code echo index generation : Byte}
    {act : EntryIx → Tenancy → State → State} (same : P s) (refused : ∀ status values, P (s.answer ch code echo status values))
    (acts : ∀ i t, s.Names ch index generation i t → P (act i t s)) : P (s.handleCommand ch code echo index generation act) := by
  refine State.atPort_of same ?_
  split
  · exact refused _ _
  · exact refused _ _
  · next i t found => exact acts i t (State.resolve_inv found)

/-! ### The configuration commands (R164 to R174) -/

/-- A configuration command that passes its checks: taken in OFFLINE with leaving clear, it changes the configuration and
answers, and what it writes lies in the ranges (R164, R166, R168). -/
structure State.Configures (s t : State) : Prop where
  offline : s.station.state = .offline
  leaving : s.station.leaving = false
  station : t.station = s.station
  line : t.line = s.line
  frames : t.frames = s.frames
  lease : t.lease = s.lease
  deferral : ∀ c, (t.channel c).deferral = (s.channel c).deferral
  settings : s.SettingsInRange → t.SettingsInRange
  limits : s.LimitsInRange → t.LimitsInRange

theorem settingsOfBytes_inRange {number ringLimit circuitTimeout retryInterval censusSteps margin : Byte} {x : Settings}
    (h : settingsOfBytes number ringLimit circuitTimeout retryInterval censusSteps margin = some x) : x.inRange = true := by
  unfold settingsOfBytes at h
  split at h
  · next ranges =>
    obtain rfl := Option.some.inj h
    simp only [Settings.inRange, Bool.and_eq_true, decide_eq_true_eq]
    omega
  · cases h

theorem limitsOfBytes_inRange {quota ceiling : Byte} {maxTerm : Word} {l : Limits}
    (h : limitsOfBytes quota ceiling maxTerm = some l) :
    l.quota ≤ 64 ∧ l.ceiling ≤ 7 ∧ 1 ≤ l.maxTerm ∧ l.maxTerm ≤ 65535 := by
  unfold limitsOfBytes at h
  split at h
  · next ranges => obtain rfl := Option.some.inj h; dsimp only; omega
  · cases h

theorem State.limitsInRange_congr {s t : State} (h : t.config.limits = s.config.limits) :
    s.LimitsInRange → t.LimitsInRange := by simp only [State.LimitsInRange, State.limits, h]; exact id

/-- A change of the configuration with its answer. -/
theorem State.configures_answer {s : State} (offline : s.station.state = .offline) (leaving : s.station.leaving = false)
    {f : ConfigStore → ConfigStore} (settings : s.config.settings.inRange = true → (f s.config).settings.inRange = true)
    (limits : s.LimitsInRange → (s.modifyConfig f).LimitsInRange) (ch : Channel) (code echo : Byte) (status : Status)
    (values : ResultValues) : s.Configures ((s.modifyConfig f).answer ch code echo status values) where
  offline := offline
  leaving := leaving
  station := rfl
  line := rfl
  frames := rfl
  lease := rfl
  deferral := fun c => by
    rw [State.answer, State.modifyChannel_channel]
    split
    · next e => subst e; rfl
    · rfl
  settings := settings
  limits := limits

/-- What a configuration command does: an answer at most, or a change of the configuration. -/
def State.AnswersOrConfigures (s t : State) : Prop :=
  t = s ∨ (∃ ch code echo status values, t = s.answer ch code echo status values) ∨ s.Configures t

theorem State.answersOrConfigures_of {s : State} {ch : Channel} {code echo : Byte} {act : State → State}
    (acts : s.station.state = .offline → s.station.leaving = false → s.AnswersOrConfigures (act s)) :
    s.AnswersOrConfigures (s.configCommand ch code echo act) :=
  State.configCommand_of (.inl rfl) (fun _ _ => .inr (.inl ⟨_, _, _, _, _, rfl⟩)) acts

theorem State.execConfigureStation_cases (s : State) (ch : Channel)
    (echo number ringLimit circuitTimeout retryInterval censusSteps margin : Byte) :
    ∃ t, execConfigureStation ch echo number ringLimit circuitTimeout retryInterval censusSteps margin s = next t ∧
      s.AnswersOrConfigures t := by
  refine ⟨_, rfl, State.answersOrConfigures_of fun offline leaving => ?_⟩
  split
  · exact .inr (.inl ⟨_, _, _, _, _, rfl⟩)
  · next x inRange =>
    refine .inr (.inr (State.configures_answer offline leaving ?_ (State.limitsInRange_congr ?_) _ _ _ _ _))
    · exact fun _ => settingsOfBytes_inRange inRange
    · rfl

theorem State.execSetChannelLimits_cases (s : State) (ch : Channel) (echo target quota ceiling : Byte) (maxTerm : Word) :
    ∃ t, execSetChannelLimits ch echo target quota ceiling maxTerm s = next t ∧ s.AnswersOrConfigures t := by
  refine ⟨_, rfl, State.answersOrConfigures_of fun offline leaving => ?_⟩
  split
  · next c l _ inRange =>
    refine .inr (.inr (State.configures_answer offline leaving ?_ (fun ranges d => ?_) _ _ _ _ _))
    · exact id
    have written : (s.modifyConfig fun x => { x with limits := x.limits.set c.val l c.isLt }).limits d =
        if c = d then l else s.limits d := by
      simp only [State.limits, State.modifyConfig, Vector.get_eq_getElem, Vector.getElem_set, Fin.ext_iff]
    rw [written]
    split
    · exact limitsOfBytes_inRange inRange
    · exact ranges d
  · exact .inr (.inl ⟨_, _, _, _, _, rfl⟩)

theorem State.execSetWindow_cases (s : State) (ch : Channel) (echo target window : Byte) (value mask : Tag)
    (enabled shared exclusive : Bool) :
    ∃ t, execSetWindow ch echo target window value mask enabled shared exclusive s = next t ∧ s.AnswersOrConfigures t := by
  refine ⟨_, rfl, State.answersOrConfigures_of fun offline leaving => ?_⟩
  dsimp only
  split
  · refine .inr (.inr (State.configures_answer offline leaving ?_ (State.limitsInRange_congr ?_) _ _ _ _ _))
    · exact id
    · rfl
  · exact .inr (.inl ⟨_, _, _, _, _, rfl⟩)

theorem State.execSetRoute_cases (s : State) (ch : Channel) (echo routingClass target : Byte) :
    ∃ t, execSetRoute ch echo routingClass target s = next t ∧ s.AnswersOrConfigures t := by
  refine ⟨_, rfl, State.answersOrConfigures_of fun offline leaving => ?_⟩
  split
  · refine .inr (.inr (State.configures_answer offline leaving ?_ (State.limitsInRange_congr ?_) _ _ _ _ _))
    · exact id
    · rfl
  · exact .inr (.inl ⟨_, _, _, _, _, rfl⟩)

theorem State.AnswersOrConfigures.kept {s t : State} (h : s.AnswersOrConfigures t) : s.LeaseKept t ∨ s.Configures t := by
  rcases h with rfl | ⟨ch, code, echo, status, values, rfl⟩ | h
  · exact .inl (.refl _)
  · exact .inl (s.answer_kept _ _ _ _ _)
  · exact .inr h

/-! ### The commands of a channel -/

theorem State.execResetChannel_kept (s : State) (ch : Channel) (echo : Byte) :
    ∃ t, execResetChannel ch echo s = next t ∧ s.LeaseKept t :=
  ⟨_, rfl, State.atPort_of (.refl s) ((s.channelReset_kept ch).trans (State.answer_kept _ _ _ _ _ _))⟩

theorem State.execResetChannelN_kept (s : State) (ch : Channel) (echo target : Byte) :
    ∃ t, execResetChannelN ch echo target s = next t ∧ s.LeaseKept t := by
  refine ⟨_, rfl, State.channel0Only_of (.refl s) (s.answer_kept _ _ _) ?_⟩
  dsimp only
  split
  · exact s.answer_kept _ _ _ _ _
  · exact (s.channelReset_kept _).trans ((State.answer_kept _ _ _ _ _ _).trans (State.answer_kept _ _ _ _ _ _))

theorem State.execRelease_kept (s : State) (ch : Channel) (echo index generation : Byte) :
    ∃ t, execRelease ch echo index generation s = next t ∧ s.LeaseKept t :=
  ⟨_, rfl, State.handleCommand_of (.refl s) (s.answer_kept _ _ _) fun _ _ names =>
    (State.releaseEntry_kept names.2.1).trans (State.answer_kept _ _ _ _ _ _)⟩

theorem Tenancy.renew_of_held {v : Tenancy} {remaining : Nat} {demand : Bool} (h : v.state = .held remaining demand)
    (term : Nat) : v.renew term = { v with
      term := renewedTerm v term, state := .held (renewedTerm v term) demand, expiringNotified := false } := by
  simp only [Tenancy.renew, h]

/-- A renewed entry stays HELD, for a term within the channel's max term (R55). -/
theorem Tenancy.Follows.renew {config : ConfigStore} {v : Tenancy} {remaining : Nat} {demand : Bool}
    (h : v.state = .held remaining demand) {term : Nat}
    (ht : renewTermInRange (config.limits.get v.owner) term = true) : v.Follows config (v.renew term) := by
  rw [Tenancy.renew_of_held h]
  refine ⟨rfl, rfl, rfl, id, by simp [Tenancy.AttachmentFollows, h], fun ⟨h1, h2, h3, h4, h5, h6, _⟩ => ?_, fun _ _ => trivial⟩
  simp only [renewTermInRange, decide_eq_true_eq] at ht
  refine ⟨h1, h2, h3, h4, ?_, ?_, Nat.le_refl _⟩ <;> simp only [renewedTerm] <;> split <;> omega

theorem State.renew_kept {s : State} {i : EntryIx} {v : Tenancy} (h : s.tenancy i = some v) (held : v.isHeld = true)
    {term : Nat} (ht : renewTermInRange (s.limits v.owner) term = true) :
    s.LeaseKept (s.modifyTenancy i (Tenancy.renew term)) := by
  obtain ⟨remaining, demand, hs⟩ := Tenancy.isHeld_iff.1 held
  have renewed := Tenancy.renew_of_held hs term
  exact State.modifyTenancy_kept h (.renew hs ht) (by simp [renewed]) (by simp [renewed]) (by simp [renewed, hs])
    (by simp [Tenancy.isActive, held]) (by simp [renewed, Tenancy.isHeld, EntryState.name])

theorem State.execRenew_kept (s : State) (ch : Channel) (echo index generation : Byte) (term : Word) :
    ∃ t, execRenew ch echo index generation term s = next t ∧ s.LeaseKept t := by
  refine ⟨_, rfl, State.handleCommand_of (.refl s) (s.answer_kept _ _ _) fun i v names => ?_⟩
  obtain ⟨-, h, owner, -, -⟩ := names
  split
  · exact s.answer_kept _ _ _ _ _
  · next inRange =>
    split
    · next held =>
      exact (State.renew_kept h held (by simpa [owner] using inRange)).trans (State.answer_kept _ _ _ _ _ _)
    · exact s.answer_kept _ _ _ _ _

theorem State.execStart_kept (s : State) (ch : Channel) (echo : Byte) :
    ∃ t, execStart ch echo s = next t ∧ s.LeaseKept t := by
  refine ⟨_, rfl, State.configCommand_of (.refl s) (s.answer_kept _ _ _) fun _ _ => ?_⟩
  split
  · exact s.takeStart_kept.trans (State.answer_kept _ _ _ _ _ _)
  · exact s.answer_kept _ _ _ _ _

theorem State.execLeave_kept (s : State) (ch : Channel) (echo : Byte) :
    ∃ t, execLeave ch echo s = next t ∧ s.LeaseKept t := by
  refine ⟨_, rfl, State.channel0Only_of (.refl s) (s.answer_kept _ _ _) ?_⟩
  split
  · exact s.answer_kept _ _ _ _ _
  · exact (State.judgeWaiting_kept _ s).trans ((State.takeLeave_kept _).trans (State.answer_kept _ _ _ _ _ _))

/-! ### The timers of the entries (R40 to R43, R52 to R54, R65) -/

theorem State.execTermTick_kept (s : State) (i : EntryIx) : ∃ t, execTermTick i s = next t ∧ s.LeaseKept t := by
  refine ⟨_, rfl, ?_⟩
  split
  · exact .refl s
  · next v h =>
    split
    · next k demand hs =>
      have ticked (expiring : Bool) : s.LeaseKept (s.modifyTenancy i
          ({ · with state := .held k demand, contendedNotified := v.contendedNotified, expiringNotified := expiring })) :=
        State.modifyTenancy_kept h (.held _ hs (Nat.le_succ k) _ _ _) rfl (by simp) (by simp [hs])
          (by simp [Tenancy.isActive, Tenancy.isHeld, hs, EntryState.name]) (fun _ => rfl)
      have quiet : s.modifyTenancy i ({ · with state := .held k demand }) = s.modifyTenancy i
          ({ · with state := .held k demand, contendedNotified := v.contendedNotified,
                    expiringNotified := v.expiringNotified }) := by
        rw [State.modifyTenancy_of_some h, State.modifyTenancy_of_some h]
      have warned : s.modifyTenancy i ({ · with state := .held k demand, expiringNotified := true }) = s.modifyTenancy i
          ({ · with state := .held k demand, contendedNotified := v.contendedNotified, expiringNotified := true }) := by
        rw [State.modifyTenancy_of_some h, State.modifyTenancy_of_some h]
      split
      · rw [warned]; exact (ticked true).trans (State.raiseLease_kept _ _ _ _)
      · rw [quiet]; exact ticked _
    all_goals exact .refl s

theorem State.execTermExpiry_kept (s : State) (i : EntryIx) : ∃ t, execTermExpiry i s = next t ∧ s.LeaseKept t := by
  refine ⟨_, rfl, ?_⟩
  split
  · exact .refl s
  · next v h =>
    split
    · obtain ⟨d, hd, -⟩ := s.raiseLease_tenancy i i .expired {}
      have raised : (s.raiseLease i .expired {}).tenancy i = some { v with deferred := d } := by
        rw [hd, h]; simp
      exact (s.raiseLease_kept _ _ _).trans (State.releaseHeld_kept (v := { v with deferred := d }) raised)
    all_goals exact .refl s

theorem State.execBackoffExpiry_kept (s : State) (i : EntryIx) : ∃ t, execBackoffExpiry i s = next t ∧ s.LeaseKept t := by
  refine ⟨_, rfl, ?_⟩
  split
  · exact .refl s
  · next h =>
    split
    · next hs => exact State.enterClaiming_backoff_kept h hs
    all_goals exact .refl s

theorem State.execClaimCircuitTimeout_kept (s : State) (i : EntryIx) :
    ∃ t, execClaimCircuitTimeout i s = next t ∧ s.LeaseKept t := by
  refine ⟨_, rfl, ?_⟩
  split
  · exact .refl s
  · next h =>
    split
    · next hs =>
      split
      · next attached => exact State.failAttempt_kept h hs attached _ _
      · exact State.endAndExamine_kept h _
    all_goals exact .refl s

theorem State.execReleaseCircuitTimeout_kept (s : State) (i : EntryIx) :
    ∃ t, execReleaseCircuitTimeout i s = next t ∧ s.LeaseKept t := by
  refine ⟨_, rfl, ?_⟩
  split
  · exact .refl s
  · next h =>
    split
    · exact State.endAndExamine_kept h _
    all_goals exact .refl s

/-! ### The line and the station (R79 to R113) -/

theorem State.execFrameArrival_kept (s : State) : ∃ t, execFrameArrival s = next t ∧ s.LeaseKept t := by
  refine ⟨_, rfl, ?_⟩
  split
  · exact .refl s
  · exact s.judgeNext_kept _ _

theorem State.execFrameBoundary_kept (s : State) : ∃ t, execFrameBoundary s = next t ∧ s.LeaseKept t := by
  refine ⟨_, rfl, ?_⟩
  split
  · exact s.boundary_kept
  · exact s.boundary_kept
  all_goals exact .refl s

theorem State.execFrameEndSent_kept (s : State) : ∃ t, execFrameEndSent s = next t ∧ s.LeaseKept t := by
  refine ⟨_, rfl, ?_⟩
  split
  · exact s.modifyLine_kept _
  · exact (s.modifyLine_kept _).trans (State.bypassClosed_kept _)
  all_goals exact .refl s

theorem State.execDrainingEndSent_kept (s : State) : ∃ t, execDrainingEndSent s = next t ∧ s.LeaseKept t := by
  refine ⟨_, rfl, ?_⟩
  split
  · exact (s.modifyLine_kept _).trans (State.bypassClosed_kept _)
  · exact .refl s

theorem State.execRelaySettleExpiry_kept (s : State) : ∃ t, execRelaySettleExpiry s = next t ∧ s.LeaseKept t := by
  refine ⟨_, rfl, ?_⟩
  split
  · exact (s.modifyLine_kept _).trans (State.modifyStation_kept _ _)
  all_goals exact .refl s

theorem State.execLineWordReceived_kept (s : State) (w : LineWord) :
    ∃ t, execLineWordReceived w s = next t ∧ s.LeaseKept t := by
  have seen : s.LeaseKept (if wordIsValid w then s.detectWord else s) := by
    split
    · exact s.detectWord_kept
    · exact .refl s
  refine ⟨_, rfl, ?_⟩
  split
  · exact seen.trans (State.receive_kept _ _)
  · exact .refl s

theorem State.execUpstreamPresent_kept (s : State) : ∃ t, execUpstreamPresent s = next t ∧ s.LeaseKept t := by
  refine ⟨_, rfl, ?_⟩
  split
  · exact s.detectWord_kept
  · exact .refl s

theorem State.execUpstreamSilent_kept (s : State) : ∃ t, execUpstreamSilent s = next t ∧ s.LeaseKept t := by
  refine ⟨_, rfl, ?_⟩
  split
  · exact s.becomeSilent_kept
  · exact .refl s

theorem State.execJoinHoldOffExpiry_kept (s : State) : ∃ t, execJoinHoldOffExpiry s = next t ∧ s.LeaseKept t := by
  refine ⟨_, rfl, ?_⟩
  split
  · exact .refl s
  · dsimp only
    split
    · exact (s.modifyStation_kept _).trans (State.addCensus_kept _)
    · exact (s.modifyStation_kept _).trans (State.modifyStation_kept _ _)

theorem State.execCensusIntervalExpiry_kept (s : State) : ∃ t, execCensusIntervalExpiry s = next t ∧ s.LeaseKept t := by
  have counted := s.modifyStation_kept ({ · with interval := s.nextInterval })
  refine ⟨_, rfl, ?_⟩
  split
  · exact .refl s
  · dsimp only
    split
    · exact counted.trans (State.addCensus_kept _)
    · split
      · exact counted.trans (State.addCensus_kept _)
      · exact counted
    · split
      · exact counted.trans (State.addCensus_kept _)
      · split
        · exact counted.trans (State.modifyStation_kept _ _)
        · exact counted
    all_goals exact counted

theorem State.execCensusLoss_kept (s : State) : ∃ t, execCensusLoss s = next t ∧ s.LeaseKept t := by
  have lost := s.modifyStation_kept ({ · with census := .none })
  refine ⟨_, rfl, ?_⟩
  split
  · exact .refl s
  · exact .refl s
  · dsimp only
    split
    · exact lost.trans (State.modifyStation_kept _ _)
    · split
      · exact lost.trans ((State.modifyStation_kept _ _).trans (State.addCensus_kept _))
      · exact lost.trans (State.enterDown_kept _ _)
    all_goals exact lost

theorem State.execStationTimestampTick_kept (s : State) : ∃ t, execStationTimestampTick s = next t ∧ s.LeaseKept t := by
  refine ⟨_, rfl, ?_⟩
  split
  · exact .refl s
  · exact s.modifyStation_kept _

/-- An update of a port's own items at its channel. -/
theorem State.atPort_channel_kept (s : State) (ch : Channel) (f : ChannelState → ChannelState)
    (hf : ∀ x, (f x).deferral = x.deferral) : s.LeaseKept (s.atPort fun s => s.modifyChannel ch f) :=
  State.atPort_of (.refl s) (s.leaseKept_modifyChannel _ _ (ChannelState.keepsNotices_of_deferral (hf _)))

end Sys2Proof.Machine

namespace Sys2Proof.Machine

open Host.Outcome

/-! ### What a command does to the Lease Table -/

/-- What one event can do, said of the tenancies and the lists that name them: it keeps their invariants one by one; or it is a
CLAIM that opens a tenancy first; or it changes the configuration in OFFLINE; or it is a device reset. -/
inductive State.LeaseOutcome (s t : State) : Prop
  | kept (h : s.LeaseKept t)
  | opens (i : EntryIx) (u : Tenancy) (r : State) (opens : s.Opens i u r) (kept : r.LeaseKept t)
  | configures (h : s.Configures t)
  | resets (free : ∀ i, t.tenancy i = none) (waiting : t.lease.waiting = []) (deferral : ∀ c, (t.channel c).deferral = [])
      (config : t.config = ConfigStore.reset)

theorem State.LeaseOutcome.of_kept {s t : State} {x : Host.Outcome State Fault Refusal}
    (h : ∃ r, x = next r ∧ s.LeaseKept r) (e : x = next t) : s.LeaseOutcome t := by
  obtain ⟨r, hr, k⟩ := h
  rw [hr] at e; cases e
  exact .kept k

theorem State.LeaseOutcome.of_config {s t : State} {x : Host.Outcome State Fault Refusal}
    (h : ∃ r, x = next r ∧ s.AnswersOrConfigures r) (e : x = next t) : s.LeaseOutcome t := by
  obtain ⟨r, hr, k⟩ := h
  rw [hr] at e; cases e
  exact k.kept.elim .kept .configures

theorem State.reset_tenancy (i : EntryIx) : State.reset.tenancy i = none := by
  simp [State.reset, LeaseTable.reset, State.tenancy, State.entry, Vector.get_eq_getElem, Entry.reset]

theorem State.reset_channel (c : Channel) : State.reset.channel c = ChannelState.reset := by
  simp [State.reset, State.channel, Vector.get_eq_getElem]

/-- Every event is one of these. -/
theorem exec_leaseOutcome {c : Instr} {s t : State} (h : exec c s = next t) : s.LeaseOutcome t := by
  cases c with
  | claim ch echo tag mode priority term limit =>
    obtain ⟨r, hr, k⟩ := s.execClaim_cases ch echo tag mode priority term limit
    obtain rfl : r = t := by
      have := hr.symm.trans h
      cases this; rfl
    rcases k with rfl | ⟨status, rfl⟩ | ⟨i, u, r, x, status, values, opens, -, -, kept, -, -, rfl⟩
    · exact .kept (.refl _)
    · exact .kept (s.answer_kept _ _ _ _ _)
    · exact .opens i u r opens (kept.trans (State.answer_kept _ _ _ _ _ _))
  | release => exact .of_kept (s.execRelease_kept _ _ _ _) h
  | renew => exact .of_kept (s.execRenew_kept _ _ _ _ _) h
  | query => exact .of_kept ⟨_, rfl, State.handleCommand_of (.refl s) (s.answer_kept _ _ _) fun _ _ _ => s.answer_kept _ _ _ _ _⟩ h
  | status => exact .of_kept ⟨_, rfl, State.atPort_of (.refl s) (s.answer_kept _ _ _ _ _)⟩ h
  | members =>
    refine .of_kept ⟨_, rfl, State.atPort_of (.refl s) ?_⟩ h
    split <;> exact s.answer_kept _ _ _ _ _
  | resetChannel => exact .of_kept (s.execResetChannel_kept _ _) h
  | resetChannelN => exact .of_kept (s.execResetChannelN_kept _ _ _) h
  | start => exact .of_kept (s.execStart_kept _ _) h
  | leave => exact .of_kept (s.execLeave_kept _ _) h
  | configureStation => exact .of_config (s.execConfigureStation_cases _ _ _ _ _ _ _ _) h
  | setChannelLimits => exact .of_config (s.execSetChannelLimits_cases _ _ _ _ _ _) h
  | setWindow => exact .of_config (s.execSetWindow_cases _ _ _ _ _ _ _ _ _) h
  | setRoute => exact .of_config (s.execSetRoute_cases _ _ _ _) h
  | unknownCommand => exact .of_kept ⟨_, rfl, State.atPort_of (.refl s) (s.answer_kept _ _ _ _ _)⟩ h
  | shortWriteCommand => refine .of_kept ⟨_, rfl, s.atPort_channel_kept _ _ ?_⟩ h; exact fun _ => rfl
  | readEvent => exact .of_kept ⟨_, rfl, State.atPort_of (.refl s) (s.readEvent_kept _)⟩ h
  | readAttention => refine .of_kept ⟨_, rfl, s.atPort_channel_kept _ _ ?_⟩ h; exact fun _ => rfl
  | unknownOpcode => refine .of_kept ⟨_, rfl, s.atPort_channel_kept _ _ ?_⟩ h; exact fun _ => rfl
  | deviceReset =>
    cases h
    exact .resets State.reset_tenancy rfl (fun c => congrArg ChannelState.deferral (State.reset_channel c)) rfl
  | upstreamPresent => exact .of_kept s.execUpstreamPresent_kept h
  | upstreamSilent => exact .of_kept s.execUpstreamSilent_kept h
  | frameArrival => exact .of_kept s.execFrameArrival_kept h
  | frameBoundary => exact .of_kept s.execFrameBoundary_kept h
  | drainingEndSent => exact .of_kept s.execDrainingEndSent_kept h
  | relaySettleExpiry => exact .of_kept s.execRelaySettleExpiry_kept h
  | joinHoldOffExpiry => exact .of_kept s.execJoinHoldOffExpiry_kept h
  | censusIntervalExpiry => exact .of_kept s.execCensusIntervalExpiry_kept h
  | censusLoss => exact .of_kept s.execCensusLoss_kept h
  | termTick i => exact .of_kept (s.execTermTick_kept i) h
  | termExpiry i => exact .of_kept (s.execTermExpiry_kept i) h
  | backoffExpiry i => exact .of_kept (s.execBackoffExpiry_kept i) h
  | claimCircuitTimeout i => exact .of_kept (s.execClaimCircuitTimeout_kept i) h
  | releaseCircuitTimeout i => exact .of_kept (s.execReleaseCircuitTimeout_kept i) h
  | leaseTableTakesStateChange => exact .of_kept ⟨_, rfl, s.takeChange_kept⟩ h
  | lineWordReceived w => exact .of_kept (s.execLineWordReceived_kept w) h
  | frameEndSent => exact .of_kept s.execFrameEndSent_kept h
  | stationTimestampTick => exact .of_kept s.execStationTimestampTick_kept h
  | resetRelease =>
    cases h
    exact .kept (State.leaseKept_of_blocks rfl rfl rfl rfl)

/-- A step either lets the clock run or takes the front command, with the rest of the queue waiting. -/
theorem step_cases {s t : State} (h : step s = next t) :
    (s.pending = [] ∧ t = s.idle) ∨ ∃ c rest, s.pending = c :: rest ∧ exec c { s with pending := rest } = next t := by
  unfold step at h
  split at h
  · next e => cases h; exact .inl ⟨e, rfl⟩
  · next c rest e => exact .inr ⟨c, rest, e, h⟩

/-- What one step can do, from the state with the front command taken out of the queue. -/
theorem step_leaseOutcome {s t : State} (h : step s = next t) : ∃ r, s.LeaseKept r ∧ r.station = s.station ∧ r.line = s.line ∧
    r.LeaseOutcome t := by
  rcases step_cases h with ⟨-, rfl⟩ | ⟨c, rest, -, ran⟩
  · exact ⟨s, .refl s, rfl, rfl, .kept s.idle_kept⟩
  · exact ⟨{ s with pending := rest }, State.leaseKept_of_blocks rfl rfl rfl rfl, rfl, rfl, exec_leaseOutcome ran⟩

/-- Settles O13: every step keeps two conflicting entries off one tag. -/
theorem stepKeepsTagsExclusive : Obligations.StepKeepsTagsExclusive := fun s t exclusive h => by
  obtain ⟨r, kept, -, -, outcome⟩ := step_leaseOutcome h
  have exclusive := kept.exclusive exclusive
  cases outcome with
  | kept k => exact k.exclusive exclusive
  | opens i u x opens k => exact k.exclusive (opens.exclusive exclusive)
  | configures k =>
    simpa only [State.Exclusive, State.tenancy, State.entry, k.lease] using exclusive
  | resets free => exact fun i j u w _ hu => by rw [free] at hu; cases hu

/-- Settles O16: every step keeps the wait lists exact. -/
theorem stepKeepsWaitListsExact : Obligations.StepKeepsWaitListsExact := fun s t exact_ h => by
  obtain ⟨r, kept, -, -, outcome⟩ := step_leaseOutcome h
  have exact_ := kept.wait exact_
  cases outcome with
  | kept k => exact k.wait exact_
  | opens i u x opens k => exact k.wait (opens.wait exact_)
  | configures k => simpa only [State.WaitListsExact, State.tenancy, State.entry, k.lease] using exact_
  | resets free waiting => simp [State.WaitListsExact, waiting, free]

/-- Settles O18: every step keeps the deferral lists exact. -/
theorem stepKeepsDeferralListsExact : Obligations.StepKeepsDeferralListsExact := fun s t exact_ h => by
  obtain ⟨r, kept, -, -, outcome⟩ := step_leaseOutcome h
  have exact_ := kept.defer exact_
  cases outcome with
  | kept k => exact k.defer exact_
  | opens i u x opens k => exact k.defer (opens.defer exact_)
  | configures k => simpa only [State.DeferralExact, State.tenancy, State.entry, k.lease, k.deferral] using exact_
  | resets free waiting deferral => simp [State.DeferralExact, deferral, free]

/-- Settles O19: every step keeps attachment in line with the state, with one attached entry per channel and tag. -/
theorem stepKeepsAttachment : Obligations.StepKeepsAttachment := fun s t law h => by
  obtain ⟨r, kept, -, -, outcome⟩ := step_leaseOutcome h
  have law := kept.attach law
  cases outcome with
  | kept k => exact k.attach law
  | opens i u x opens k => exact k.attach (opens.attach law)
  | configures k => simpa only [State.AttachmentLaw, State.tenancy, State.entry, k.lease] using law
  | resets free => simp [State.AttachmentLaw, free]

end Sys2Proof.Machine

namespace Sys2Proof.Machine

/-! ### Ranges and timers of the station record and the Line Interface -/

/-- The items of the station record lie in their ranges (R105, R114, R115). -/
def StationRecord.InRange (r : StationRecord) : Prop :=
  r.faultScore ≤ 255 ∧ r.lastCircuit ≤ 255000 ∧ r.censusLosses ≤ 1 ∧ r.view.length ≤ 64

/-- Transit and receive store lie in their ranges (R94, R96). -/
def LineInterface.InRange (l : LineInterface) : Prop :=
  transitWords l.transit ≤ 512 ∧ ∀ store violation overlong, l.receiver = .inFrame store violation overlong → store.length ≤ 197

/-- The timers of the Station Controller lie in their ranges (R105, R108 to R110). -/
def StationRecord.TimersInRange (r : StationRecord) : Prop :=
  (∀ timer, r.holdOff = some timer → timer ≤ 510) ∧ (∀ timer, r.interval = some timer → timer ≤ 2550) ∧
    ∀ serial origin circuit, r.census = .inFlight serial origin circuit → circuit ≤ 255

/-- The timers of the Line Interface lie in their ranges, and the transmitter's counts within the frame and the gap (R93, R97,
R98, R100). -/
def LineInterface.TimersInRange (l : LineInterface) : Prop :=
  (∀ timer, l.mode = .settling timer → timer ≤ 5000) ∧ (∀ timer, l.detector = .present timer → timer ≤ 50) ∧
    (∀ ws sent, l.transmitter = .sending ws sent → 1 ≤ sent ∧ sent ≤ ws.length + 1) ∧
    ∀ owed, l.transmitter = .idle owed → owed ≤ 2

/-- Stores and items of the records lie in their ranges. -/
def State.Bounds (s : State) : Prop := s.station.InRange ∧ s.line.InRange

/-- The timers of the Station Controller and of the Line Interface lie in their ranges. -/
def State.RingTimers (s : State) : Prop := s.station.TimersInRange ∧ s.line.TimersInRange

theorem State.bounds_iff (s : State) : s.Bounds ↔ s.TransitBounded ∧ s.RecordInRange := by
  simp only [State.Bounds, StationRecord.InRange, LineInterface.InRange, State.TransitBounded, State.RecordInRange]
  tauto

theorem State.timersInRange_iff (s : State) : s.TimersInRange ↔ s.EntryTimers ∧ s.RingTimers := by
  simp only [State.TimersInRange, State.EntryTimers, State.RingTimers, StationRecord.TimersInRange,
    LineInterface.TimersInRange]
  tauto

/-! ### What a station on the ring keeps -/

/-- What every event keeps that neither takes the station onto the ring nor off it: insertion mode and station state as far as
R92 ties them, leaving, the configuration, the ranges and the timers. -/
structure State.RingKept (s t : State) : Prop where
  config : t.config = s.config
  bypassed : t.line.mode = .bypassed ↔ s.line.mode = .bypassed
  draining : t.line.mode = .draining ↔ s.line.mode = .draining
  leaving : t.station.leaving = s.station.leaving
  offline : t.station.state = .offline ↔ s.station.state = .offline
  bounds : s.Bounds → t.Bounds
  timers : s.SettingsInRange → s.RingTimers → t.RingTimers

theorem State.ringKept_of_records {s t : State} (config : t.config = s.config) (station : t.station = s.station)
    (line : t.line = s.line) : s.RingKept t :=
  ⟨config, by rw [line], by rw [line], by rw [station], by rw [station], by simp [State.Bounds, station, line],
    fun _ => by simp [State.RingTimers, station, line]⟩

theorem State.RingKept.refl (s : State) : s.RingKept s := State.ringKept_of_records rfl rfl rfl

theorem State.LeaseWork.ringKept {s t : State} (h : s.LeaseWork t) : s.RingKept t :=
  State.ringKept_of_records h.config h.station h.line

theorem State.RingKept.trans {s t u : State} (h : s.RingKept t) (k : t.RingKept u) : s.RingKept u where
  config := k.config.trans h.config
  bypassed := k.bypassed.trans h.bypassed
  draining := k.draining.trans h.draining
  leaving := k.leaving.trans h.leaving
  offline := k.offline.trans h.offline
  bounds := fun b => k.bounds (h.bounds b)
  timers := fun c b => k.timers (by rwa [State.SettingsInRange, h.config]) (h.timers c b)

/-- A change of the station record. -/
theorem State.modifyStation_ringKept (s : State) {f : StationRecord → StationRecord}
    (leaving : (f s.station).leaving = s.station.leaving) (offline : (f s.station).state = .offline ↔ s.station.state = .offline)
    (range : s.station.InRange → (f s.station).InRange)
    (timers : s.SettingsInRange → s.station.TimersInRange → (f s.station).TimersInRange) : s.RingKept (s.modifyStation f) :=
  ⟨rfl, .rfl, .rfl, leaving, offline, fun b => ⟨range b.1, b.2⟩, fun c b => ⟨timers c b.1, b.2⟩⟩

/-- A change of the Line Interface. -/
theorem State.modifyLine_ringKept (s : State) {f : LineInterface → LineInterface}
    (bypassed : (f s.line).mode = .bypassed ↔ s.line.mode = .bypassed)
    (draining : (f s.line).mode = .draining ↔ s.line.mode = .draining) (range : s.line.InRange → (f s.line).InRange)
    (timers : s.line.TimersInRange → (f s.line).TimersInRange) : s.RingKept (s.modifyLine f) :=
  ⟨rfl, bypassed, draining, rfl, .rfl, fun b => ⟨b.1, range b.2⟩, fun _ b => ⟨b.1, timers b.2⟩⟩

theorem State.modifyFrames_ringKept (s : State) (f : FrameProcessor → FrameProcessor) : s.RingKept (s.modifyFrames f) :=
  State.ringKept_of_records rfl rfl rfl

theorem State.answer_ringKept (s : State) (ch : Channel) (code echo : Byte) (status : Status) (values : ResultValues) :
    s.RingKept (s.answer ch code echo status values) := State.ringKept_of_records rfl rfl rfl

theorem State.raiseStation_ringKept (s : State) (c : RoutingClass) (r : EventRecord) : s.RingKept (s.raiseStation c r) :=
  State.ringKept_of_records rfl rfl rfl

theorem State.tellLease_ringKept (s : State) (x : StationState) : s.RingKept (s.tellLease x) := by
  unfold State.tellLease
  split <;> exact State.ringKept_of_records rfl rfl rfl

theorem State.setSendList_ringKept (s : State) (l : List SendItem) : s.RingKept (s.setSendList l) :=
  State.ringKept_of_records rfl rfl rfl

/-! ### The Station Controller -/

theorem State.addCensus_ringKept (s : State) : s.RingKept s.addCensus := by
  unfold State.addCensus
  split
  · exact (s.modifyStation_ringKept rfl .rfl id fun _ ⟨a, b, _⟩ => ⟨a, b, by simp⟩).trans (State.setSendList_ringKept _ _)
  · exact .refl s

theorem Census.abandon_inFlight {c : Census} {serial : Byte} {origin circuit : Nat} :
    c.abandon ≠ .inFlight serial origin circuit := by cases c <;> simp [Census.abandon]

theorem State.enterDown_ringKept (s : State) (cause : RingCause) : s.RingKept (s.enterDown cause) := by
  unfold State.enterDown
  split
  · next up =>
    have down := s.modifyStation_ringKept
      (f := fun r => { r with state := .down, census := r.census.abandon, censusLosses := 0 }) rfl (by simp [up])
      (fun ⟨a, b, _, d⟩ => ⟨a, b, Nat.zero_le _, d⟩)
      (fun _ ⟨a, b, _⟩ => ⟨a, b, fun _ _ _ e => absurd e Census.abandon_inFlight⟩)
    exact down.trans ((State.raiseStation_ringKept _ _ _).trans (State.tellLease_ringKept _ _))
  · exact .refl s

theorem State.enterHalted_ringKept (s : State) : s.RingKept s.enterHalted := by
  unfold State.enterHalted
  split
  · next on =>
    have halted := s.modifyStation_ringKept
      (f := fun r => { r with state := .halted, census := .none, awaitsUpstream := false, holdOff := none, interval := none,
                              censusLosses := 0 }) rfl (by rcases on with h | h | h <;> simp [h])
      (fun ⟨a, b, _, d⟩ => ⟨a, b, Nat.zero_le _, d⟩) (fun _ _ => ⟨by simp, by simp, by simp⟩)
    exact halted.trans ((State.setSendList_ringKept _ _).trans
      ((State.raiseStation_ringKept _ _ _).trans (State.tellLease_ringKept _ _)))
  · exact .refl s

theorem State.enterUp_ringKept {s : State} (on : s.station.state ≠ .offline) {members : List Member}
    (listed : members.length ≤ 64) (cause : RingCause) : s.RingKept (s.enterUp members cause) := by
  have up := s.modifyStation_ringKept
    (f := fun r => { r with state := .up, view := members, censusLosses := 0,
                            interval := some s.config.settings.censusInterval }) rfl (by simp [on])
    (fun ⟨a, b, _, _⟩ => ⟨a, b, Nat.zero_le _, listed⟩)
    (fun c ⟨a, _, d⟩ => ⟨a, fun timer e => by
      obtain rfl := Option.some.inj e; exact (Settings.inRange_bounds c).2.2.2, d⟩)
  exact up.trans ((State.raiseStation_ringKept _ _ _).trans (State.tellLease_ringKept _ _))

theorem State.raiseMembership_ringKept (s : State) (previous members : List Member) :
    s.RingKept (s.raiseMembership previous members) := by
  unfold State.raiseMembership
  split
  · exact .refl s
  · exact s.raiseStation_ringKept _ _

/-- A change of fault score and warning that keeps the score within 255. -/
theorem State.score_ringKept (s : State) {f : StationRecord → StationRecord} (score : Nat) (le : s.station.faultScore ≤ 255 → score ≤ 255)
    (hf : f s.station = { s.station with faultScore := score, faultWarning := (f s.station).faultWarning }) :
    s.RingKept (s.modifyStation f) :=
  s.modifyStation_ringKept (by rw [hf]) (by rw [hf]) (fun ⟨a, b, c, d⟩ => by rw [hf]; exact ⟨le a, b, c, d⟩)
    (fun _ h => by rw [hf]; exact h)

theorem State.reportDamaged_ringKept (s : State) : s.RingKept s.reportDamaged := by
  have scored : s.RingKept (s.modifyStation ({ · with faultScore := scoreDamaged s.station.faultScore })) :=
    s.score_ringKept _ (fun _ => Nat.min_le_left _ _) rfl
  have warned (u : State) (r : EventRecord) : s.RingKept u →
      s.RingKept ((u.modifyStation ({ · with faultWarning := true })).raiseStation .faults r) := fun h =>
    h.trans ((u.score_ringKept u.station.faultScore id rfl).trans (State.raiseStation_ringKept _ _ _))
  unfold State.reportDamaged
  dsimp only
  split
  · split
    · exact (warned _ _ scored).trans (State.enterDown_ringKept _ _)
    · exact scored.trans (State.enterDown_ringKept _ _)
  · split
    · exact warned _ _ scored
    · exact scored

theorem State.reportIntact_ringKept (s : State) : s.RingKept s.reportIntact := by
  have scored : s.RingKept (s.modifyStation ({ · with faultScore := scoreIntact s.station.faultScore })) :=
    s.score_ringKept _ (fun h => Nat.le_trans (Nat.sub_le _ _) h) rfl
  unfold State.reportIntact
  dsimp only
  split
  · exact scored.trans ((State.score_ringKept _ _ id rfl).trans (State.raiseStation_ringKept _ _ _))
  · exact scored

theorem State.adoptCensus_ringKept (s : State) {members : List Member} (listed : members.length ≤ 64) :
    s.RingKept (s.adoptCensus members) := by
  unfold State.adoptCensus
  split
  · next h => exact State.enterUp_ringKept (by simp [h]) listed _
  · have adopted := s.modifyStation_ringKept (f := ({ · with view := members, censusLosses := 0 })) rfl .rfl
      (fun ⟨a, b, _, _⟩ => ⟨a, b, Nat.zero_le _, listed⟩) (fun _ h => h)
    exact adopted.trans (State.raiseMembership_ringKept _ _ _)
  · next h =>
    split
    · exact (State.enterUp_ringKept (by simp [h]) listed _).trans (State.raiseMembership_ringKept _ _ _)
    · exact s.modifyStation_ringKept rfl .rfl (fun ⟨a, b, _, d⟩ => ⟨a, b, Nat.zero_le _, d⟩) (fun _ h => h)
  all_goals exact .refl s

theorem State.censusReturn_ringKept (s : State) (serial : Byte) {members : List Member} (listed : members.length ≤ 64) :
    s.RingKept (s.censusReturn serial members) := by
  unfold State.censusReturn
  split
  · next serial' origin _ _ =>
    have returned := s.modifyStation_ringKept
      (f := ({ · with census := .none, lastCircuit := circuitTime origin s.time.micros })) rfl .rfl
      (fun ⟨a, _, c, d⟩ => ⟨a, by simp only [circuitTime]; omega, c, d⟩) (fun _ ⟨a, b, _⟩ => ⟨a, b, by simp⟩)
    split
    · dsimp only
      split
      · exact returned.trans (State.enterHalted_ringKept _)
      · exact returned.trans (State.adoptCensus_ringKept _ listed)
    · exact .refl s
  all_goals exact .refl s

/-! ### Arrivals -/

theorem State.intoTransit_ringKept (s : State) (ws : List Word) : s.RingKept (s.intoTransit ws) := by
  unfold State.intoTransit
  split
  · next room =>
    exact s.modifyLine_ringKept .rfl .rfl
      (fun ⟨_, b⟩ => ⟨by simpa [transitWords] using room, b⟩) id
  · exact .refl s

theorem State.passFrame_ringKept (s : State) (f : Frame) (ws : List Word) : s.RingKept (s.passFrame f ws) := by
  unfold State.passFrame
  split
  · exact (s.claimPasses_work _ _ _ _ _).ringKept.trans (State.intoTransit_ringKept _ _)
  · exact (s.releasePasses_work _).ringKept.trans (State.intoTransit_ringKept _ _)
  · next members _ =>
    have halted : s.RingKept (if s.listsDuplicate members = true then s.enterHalted else s) := by
      split
      · exact s.enterHalted_ringKept
      · exact .refl s
    dsimp only
    split
    · exact halted
    · exact halted.trans (State.intoTransit_ringKept _ _)

theorem State.takeChange_ringKept (s : State) : s.RingKept s.takeChange := by
  have absorbed (u : State) : u.RingKept u.absorbUp := by
    unfold State.absorbUp
    split
    · exact State.ringKept_of_records rfl rfl rfl
    · exact .refl u
  have applied (u : State) (x : StationState) : u.RingKept (u.applyChange x) :=
    (State.ringKept_of_records (s := u) (t := u.setTaken x) rfl rfl rfl).trans (u.applyChange_work x).ringKept
  unfold State.takeChange
  split
  · exact .refl s
  · exact absorbed s
  · next x rest _ _ =>
    exact (State.ringKept_of_records (s := s) (t := s.setChanges rest) rfl rfl rfl).trans
      ((applied _ _).trans (absorbed _))

theorem State.takeChangesN_ringKept (n : Nat) (s : State) : s.RingKept (State.takeChangesN n s) := by
  induction n generalizing s with
  | zero => exact .refl s
  | succ n ih => exact s.takeChange_ringKept.trans (ih _)

theorem State.drawOrder_ringKept (s : State) : s.RingKept s.drawOrder := by
  have counted : s.RingKept { s with choices := s.choices + 1 } := State.ringKept_of_records rfl rfl rfl
  unfold State.drawOrder
  split
  · exact counted.trans (State.takeChangesN_ringKept _ _)
  · exact counted

theorem State.foreignFrame_ringKept (s : State) (f : Frame) (ws : List Word) : s.RingKept (s.foreignFrame f ws) := by
  have reported : s.RingKept (if s.ownNumber f then s.enterHalted else s) := by
    split
    · exact s.enterHalted_ringKept
    · exact .refl s
  have drawn (u : State) : u.RingKept (if s.reportsDuplicate f then u.drawOrder else u) := by
    split
    · exact u.drawOrder_ringKept
    · exact .refl u
  unfold State.foreignFrame
  dsimp only
  split
  · exact reported
  · exact reported.trans ((drawn _).trans (State.passFrame_ringKept _ _ _))

/-- The list of an intact census has at most 64 entries (R78). -/
theorem Arrival.judge_census {a : Arrival} {f : Frame} (h : a.judge = some f) {members : List Member}
    (census : f.body = .census members) : members.length ≤ 64 := by
  have parsed : parseFrame a.words = some f := by
    unfold Arrival.judge at h
    split at h
    · cases h
    · exact h
  have claims (high : Byte) (w3 w4 : Word) : parseClaim high w3 w4 ≠ some (.census members) := by
    unfold parseClaim
    dsimp only
    split <;> simp
  have body (kind : BitVec 2) (low : Byte) (rest : List Word) (b : parseBody kind low rest = some (.census members)) :
      members.length ≤ 64 := by
    unfold parseBody at b
    split at b
    · split at b
      · exact absurd b (claims _ _ _)
      · cases b
    · split at b
      · split at b <;> simp at b
      · split at b
        · split at b
          · unfold parseCensus at b
            split at b
            · cases b
            · split at b
              · next le => cases b; exact le.2.2
              · cases b
          · cases b
        · cases b
  unfold parseFrame at parsed
  split at parsed
  · split at parsed
    · split at parsed
      · cases parsed
      · next hb => cases parsed; exact body _ _ _ (hb.trans (congrArg some census))
    · cases parsed
  · cases parsed

theorem State.ownReturn_ringKept (s : State) (f : Frame) (listed : ∀ members, f.body = .census members → members.length ≤ 64) :
    s.RingKept (s.ownReturn f) := by
  unfold State.ownReturn
  split
  · exact (s.claimReturn_work _ _ _ _ _).ringKept
  · exact (s.releaseReturn_work _ _).ringKept
  · next census => exact s.censusReturn_ringKept _ (listed _ census)

theorem State.takeArrival_ringKept (s : State) (a : Arrival) : s.RingKept (s.takeArrival a) := by
  unfold State.takeArrival
  split
  · exact s.reportDamaged_ringKept
  · next judged =>
    dsimp only
    split
    · exact s.reportIntact_ringKept.trans (State.ownReturn_ringKept _ _ fun _ census => Arrival.judge_census judged census)
    · exact s.reportIntact_ringKept.trans (State.foreignFrame_ringKept _ _ _)

theorem State.judgeNext_ringKept (s : State) (a : Arrival) (rest : List Arrival) : s.RingKept (s.judgeNext a rest) := by
  unfold State.judgeNext
  dsimp only
  split
  · exact (s.modifyFrames_ringKept _).trans (State.takeArrival_ringKept _ _)
  · exact s.modifyFrames_ringKept _

theorem State.judgeWaiting_ringKept (l : List Arrival) (s : State) : s.RingKept (State.judgeWaiting l s) := by
  induction l generalizing s with
  | nil => exact .refl s
  | cons a l ih => exact (s.judgeNext_ringKept a l).trans (ih _)

/-! ### The line -/

theorem State.completeFrame_ringKept (s : State) (store : List Word) (v o c : Bool) :
    s.RingKept (s.completeFrame store v o c) := State.ringKept_of_records rfl rfl rfl

theorem State.setReceiver_ringKept (s : State) (r : Receiver)
    (range : s.line.InRange → ∀ store v o, r = .inFrame store v o → store.length ≤ 197) : s.RingKept (s.setReceiver r) :=
  s.modifyLine_ringKept .rfl .rfl (fun b => ⟨b.1, range b⟩) id

theorem State.receive_ringKept (s : State) (w : LineWord) : s.RingKept (s.receive w) := by
  have completed (store : List Word) (v o c : Bool) {r : Receiver} (hr : r = .between ∨ r = .inFrame [] false false) :
      s.RingKept ((s.completeFrame store v o c).setReceiver r) :=
    (s.completeFrame_ringKept _ _ _ _).trans (State.setReceiver_ringKept _ _ fun _ _ _ _ e => by
      rcases hr with rfl | rfl <;> cases e
      exact Nat.zero_le _)
  unfold State.receive
  split
  · split
    · exact s.setReceiver_ringKept _ fun _ _ _ _ e => by cases e; exact Nat.zero_le _
    all_goals exact .refl s
  · next store violation overlong here =>
    split
    · split
      · next room =>
        exact s.setReceiver_ringKept _ fun _ _ _ _ e => by
          cases e; simp only [List.length_append, List.length_singleton]; simp at room; omega
      · exact s.setReceiver_ringKept _ fun b _ _ _ e => by cases e; exact b.2 _ _ _ here
    · exact s.setReceiver_ringKept _ fun b _ _ _ e => by cases e; exact b.2 _ _ _ here
    · exact completed _ _ _ _ (.inl rfl)
    · exact completed _ _ _ _ (.inr rfl)
    · exact completed _ _ _ _ (.inl rfl)

/-- A change of the detector to one whose silence timer is in range (R93). -/
theorem State.setDetector_ringKept (s : State) (d : Detector) (range : ∀ timer, d = .present timer → timer ≤ 50) :
    s.RingKept (s.modifyLine ({ · with detector := d })) :=
  s.modifyLine_ringKept .rfl .rfl id fun ⟨a, _, c⟩ => ⟨a, range, c⟩

theorem State.reportPresent_ringKept (s : State) : s.RingKept s.reportPresent := by
  unfold State.reportPresent
  split
  · exact s.addCensus_ringKept
  · exact .refl s

theorem State.detectWord_ringKept (s : State) : s.RingKept s.detectWord := by
  have seen := s.setDetector_ringKept (.present Config.silenceMicros) fun _ e => by cases e; exact Nat.le_refl _
  unfold State.detectWord
  dsimp only
  split
  · exact seen.trans (State.reportPresent_ringKept _)
  · exact seen

theorem State.becomeSilent_ringKept (s : State) : s.RingKept s.becomeSilent := by
  unfold State.becomeSilent
  dsimp only
  refine State.RingKept.trans ?_ ((State.setDetector_ringKept _ .silent (by simp)).trans (State.enterDown_ringKept _ _))
  split
  · exact .refl s
  · exact (s.completeFrame_ringKept _ _ _ _).trans (State.setReceiver_ringKept _ _ (by simp))

/-- A change of the transmitter with its counts in range (R97, R98). -/
theorem State.setTransmitter_ringKept (s : State) {f : LineInterface → LineInterface} (x : Transmitter)
    (hf : f s.line = { s.line with transmitter := x, transit := (f s.line).transit })
    (transit : transitWords s.line.transit ≤ 512 → transitWords (f s.line).transit ≤ 512)
    (sending : s.line.TimersInRange → ∀ ws sent, x = .sending ws sent → 1 ≤ sent ∧ sent ≤ ws.length + 1)
    (idle : s.line.TimersInRange → ∀ owed, x = .idle owed → owed ≤ 2) : s.RingKept (s.modifyLine f) :=
  s.modifyLine_ringKept (by rw [hf]) (by rw [hf]) (fun ⟨a, b⟩ => by rw [hf]; exact ⟨transit a, b⟩)
    fun h => by rw [hf]; exact ⟨h.1, h.2.1, sending h, idle h⟩

theorem State.beginSending_ringKept (s : State) (ws : List Word) : s.RingKept (s.beginSending ws) :=
  s.setTransmitter_ringKept (.sending ws 1) rfl id (fun _ _ _ e => by cases e; omega) (by simp)

theorem State.originateItem_ringKept (s : State) (item : SendItem) : s.RingKept (s.originateItem item) := by
  have originated (body : FrameBody) : s.RingKept (s.originate body) :=
    (s.beginSending_ringKept _).trans (State.modifyFrames_ringKept _ _)
  unfold State.originateItem
  split
  · split
    · exact .refl s
    · split
      · exact (originated _).trans (State.ringKept_of_records rfl rfl rfl)
      · exact .refl s
  · split
    · exact .refl s
    · split
      · exact (originated _).trans (State.ringKept_of_records rfl rfl rfl)
      · exact .refl s
  · exact (originated _).trans (State.modifyStation_ringKept _ rfl .rfl id fun c ⟨a, b, _⟩ => ⟨a, b, fun _ _ _ e => by
      cases e; exact (Settings.inRange_bounds c).2.1⟩)

theorem State.boundary_ringKept (s : State) : s.RingKept s.boundary := by
  unfold State.boundary
  split
  · next ws rest h =>
    refine State.RingKept.trans (s.modifyLine_ringKept .rfl .rfl (fun ⟨a, b⟩ => ⟨?_, b⟩) id) (State.beginSending_ringKept _ _)
    simp only [transitWords, h, List.map_cons, List.sum_cons] at a ⊢
    omega
  · split
    · exact (s.setSendList_ringKept _).trans (State.originateItem_ringKept _ _)
    · exact s.setTransmitter_ringKept (.idle 0) rfl id (by simp) (fun _ _ e => by cases e; omega)

/-! ### The clock -/

theorem State.wordTime_ringKept (s : State) : s.RingKept s.wordTime := by
  unfold State.wordTime
  split
  · exact .refl s
  · split
    · next ws sent here =>
      split
      · next le =>
        exact s.setTransmitter_ringKept (.sending ws (sent + 1)) rfl id (fun _ _ _ e => by cases e; omega) (by simp)
      · exact State.ringKept_of_records rfl rfl rfl
    · exact s.setTransmitter_ringKept (.idle (Config.gapWords - 1)) rfl id (by simp) (fun _ _ e => by cases e; decide)
    · next owed here =>
      exact s.setTransmitter_ringKept (.idle owed) rfl id (by simp) (fun h _ e => by
        cases e; exact Nat.le_trans (Nat.le_succ _) (h.2.2.2 _ here))
    · split
      · exact State.ringKept_of_records rfl rfl rfl
      · exact .refl s

theorem State.microTick_ringKept (s : State) : s.RingKept s.microTick := by
  have mode : (s.line.tick.mode = .bypassed ↔ s.line.mode = .bypassed) ∧
      (s.line.tick.mode = .draining ↔ s.line.mode = .draining) := by
    cases h : s.line.mode <;> simp [LineInterface.tick, h]
  refine ⟨rfl, mode.1, mode.2, rfl, .rfl, id, fun _ b => ⟨b.1, fun timer h => ?_, fun timer h => ?_, b.2.2.2⟩⟩
  · change s.line.tick.mode = _ at h
    cases m : s.line.mode with
    | settling x =>
      simp only [LineInterface.tick, m, InsertionMode.settling.injEq] at h
      have := b.2.1 x m; omega
    | _ => simp [LineInterface.tick, m] at h
  · change s.line.tick.detector = _ at h
    cases m : s.line.detector with
    | present x =>
      simp only [LineInterface.tick, m, Detector.present.injEq] at h
      have := b.2.2.1 x m; omega
    | silent => simp [LineInterface.tick, m] at h

theorem State.milliTick_ringKept (s : State) : s.RingKept s.milliTick := by
  refine ⟨rfl, .rfl, .rfl, rfl, .rfl, id, fun _ b => ⟨⟨fun timer h => ?_, fun timer h => ?_, fun serial origin circuit h => ?_⟩,
    b.2⟩⟩
  · obtain ⟨x, hx, rfl⟩ := Option.map_eq_some_iff.1 (show s.station.holdOff.map (· - 1) = some timer from h)
    exact Nat.le_trans (Nat.sub_le _ _) (b.1.1 x hx)
  · obtain ⟨x, hx, rfl⟩ := Option.map_eq_some_iff.1 (show s.station.interval.map (· - 1) = some timer from h)
    exact Nat.le_trans (Nat.sub_le _ _) (b.1.2.1 x hx)
  · change s.station.census.tick = _ at h
    cases m : s.station.census with
    | inFlight a o x =>
      simp only [m, Census.tick, Census.inFlight.injEq] at h
      have := b.1.2.2 _ _ x m; omega
    | _ => simp [m, Census.tick] at h

theorem State.clockPeriod_ringKept (s : State) : s.RingKept s.clockPeriod := by
  have counted (p : Nat) : s.RingKept { s with time := { s.time with phase := p } } := State.ringKept_of_records rfl rfl rfl
  have word (p : Nat) (u : State) : u.RingKept (if p % Config.clocksPerWord = 0 then u.wordTime else u) := by
    split
    · exact u.wordTime_ringKept
    · exact .refl u
  have micro (p : Nat) (u : State) : u.RingKept (if p % Config.clocksPerMicro = 0 then u.microTick else u) := by
    split
    · exact u.microTick_ringKept
    · exact .refl u
  have milli (p : Nat) (u : State) : u.RingKept (if p = 0 then u.milliTick else u) := by
    split
    · exact u.milliTick_ringKept
    · exact .refl u
  exact (counted _).trans ((word _ _).trans ((micro _ _).trans (milli _ _)))

end Sys2Proof.Machine

namespace Sys2Proof.Machine

open Host.Outcome

/-! ### A station at rest: OFFLINE or leaving (R92, R106, R121) -/

/-- The station is neither OFFLINE nor leaving. -/
def State.OnRing (s : State) : Prop := s.station.state ≠ .offline ∧ s.station.leaving = false

/-- Nothing is under way at the station, and its line is BYPASSED or DRAINING. -/
structure State.Resting (s : State) : Prop where
  off : s.station.state = .offline ∨ s.station.leaving = true
  quiet : s.Quiet
  mode : s.line.mode = .bypassed ∨ s.line.mode = .draining

theorem State.StationLine.cases {s : State} (h : s.StationLine) :
    (s.OnRing ∧ s.line.mode ≠ .bypassed ∧ s.line.mode ≠ .draining) ∨ s.Resting := by
  obtain ⟨off, drain, quiet⟩ := h
  by_cases on : s.station.state = .offline ∨ s.station.leaving = true
  · exact .inr ⟨on, quiet on, on.imp off.1 drain.1⟩
  · simp only [not_or, Bool.not_eq_true] at on
    refine .inl ⟨on, fun e => on.1 (off.2 e), fun e => ?_⟩
    rw [drain.2 e] at on; simp at on

theorem State.stationLine_of_onRing {s : State} (on : s.OnRing) (bypassed : s.line.mode ≠ .bypassed)
    (draining : s.line.mode ≠ .draining) : s.StationLine := by
  obtain ⟨off, leaving⟩ := on
  simp [State.StationLine, off, leaving, bypassed, draining]

/-- Nothing is changed that a station at rest is looked at for. -/
structure State.SameRing (s t : State) : Prop where
  config : t.config = s.config
  free : ∀ i, s.tenancy i = none → t.tenancy i = none
  waiting : t.lease.waiting = s.lease.waiting
  changes : t.lease.changes = s.lease.changes
  frames : t.frames = s.frames
  station : t.station = s.station
  line : t.line = s.line

theorem State.SameRing.refl (s : State) : s.SameRing s := ⟨rfl, fun _ h => h, rfl, rfl, rfl, rfl, rfl⟩

theorem State.SameRing.trans {s t u : State} (h : s.SameRing t) (k : t.SameRing u) : s.SameRing u :=
  ⟨k.config.trans h.config, fun i x => k.free i (h.free i x), k.waiting.trans h.waiting, k.changes.trans h.changes,
    k.frames.trans h.frames, k.station.trans h.station, k.line.trans h.line⟩

theorem State.modifyChannel_sameRing (s : State) (c : Channel) (f : ChannelState → ChannelState) :
    s.SameRing (s.modifyChannel c f) := ⟨rfl, fun _ h => h, rfl, rfl, rfl, rfl, rfl⟩

theorem State.answer_sameRing (s : State) (ch : Channel) (code echo : Byte) (status : Status) (values : ResultValues) :
    s.SameRing (s.answer ch code echo status values) := s.modifyChannel_sameRing _ _

theorem State.SameRing.quiet {s t : State} (h : s.SameRing t) (q : s.Quiet) : t.Quiet := by
  unfold State.Quiet at q ⊢
  rw [h.waiting, h.changes, h.frames, h.station, h.line]
  exact ⟨fun i => h.free i (q.1 i), q.2⟩

theorem State.SameRing.stationLine {s t : State} (h : s.SameRing t) (k : s.StationLine) : t.StationLine := by
  refine ⟨?_, ?_, fun off => h.quiet (k.2.2 ?_)⟩
  · rw [h.station, h.line]; exact k.1
  · rw [h.station, h.line]; exact k.2.1
  · rwa [h.station] at off

/-! ### What one event keeps of station, line and records -/

/-- What one event does, said of the station and its line: they go on moving together, ranges and timers are kept, and only a
START with a valid configuration takes a station out of OFFLINE. -/
structure State.RingStep (s t : State) : Prop where
  line : t.StationLine
  bounds : s.Bounds → t.Bounds
  timers : s.SettingsInRange → s.RingTimers → t.RingTimers
  joins : t.station.state ≠ .offline → s.station.state ≠ .offline ∨ s.config.valid = true

theorem State.RingStep.of_same {s t : State} (line : s.StationLine) (h : s.SameRing t) : s.RingStep t :=
  ⟨h.stationLine line, by simp [State.Bounds, h.station, h.line], fun _ => by simp [State.RingTimers, h.station, h.line],
    by rw [h.station]; exact .inl⟩

theorem State.RingStep.of_kept {s t : State} (h : s.RingKept t) (on : s.OnRing) (bypassed : s.line.mode ≠ .bypassed)
    (draining : s.line.mode ≠ .draining) : s.RingStep t :=
  ⟨State.stationLine_of_onRing ⟨fun e => on.1 (h.offline.1 e), h.leaving.trans on.2⟩ (fun e => bypassed (h.bypassed.1 e))
      (fun e => draining (h.draining.1 e)),
    h.bounds, h.timers, fun e => .inl fun k => e (h.offline.2 k)⟩

/-- An event that keeps what a station on the ring keeps, and that finds nothing to act on at a station at rest. -/
theorem State.RingStep.of {s t : State} (line : s.StationLine) (kept : s.OnRing → s.RingKept t)
    (rests : s.Resting → s.SameRing t) : s.RingStep t := by
  rcases line.cases with ⟨on, bypassed, draining⟩ | rest
  · exact .of_kept (kept on) on bypassed draining
  · exact .of_same line (rests rest)

/-! ### A channel reset at rest -/

theorem foldl_of_fixed {α β : Type} {f : α → β → α} {s : α} (h : ∀ b, f s b = s) (l : List β) : l.foldl f s = s := by
  induction l with
  | nil => rfl
  | cons b l ih => rw [List.foldl_cons, h, ih]

theorem State.channelReset_free {s : State} (free : ∀ i, s.tenancy i = none) (c : Channel) :
    s.channelReset c = s.resetEvents c := by
  have free' (i : EntryIx) : (s.resetEvents c).tenancy i = none := by rw [State.resetEvents_tenancy, free i]; rfl
  have meets (p : Tenancy → Bool) (i : EntryIx) : (s.resetEvents c).entryMeets p i = false := by
    simp [State.entryMeets, free' i]
  have freed : s.resetFreed c = s.resetEvents c :=
    foldl_of_fixed (fun i => by rw [State.resetFree, meets]; rfl) allIx
  have detached : s.resetDetached c = s.resetEvents c := by
    unfold State.resetDetached
    rw [freed]
    exact foldl_of_fixed (fun i => by rw [State.resetDetach, meets]; rfl) allIx
  have released : s.resetReleased c = (s.resetEvents c, []) := by
    unfold State.resetReleased
    rw [detached]
    exact foldl_of_fixed (fun i => by simp only [State.resetRelease, free' i]) allIx
  have tags : s.tagsOf (fun t => t.owner == c && t.resetTouches) = [] := by
    rw [List.eq_nil_iff_forall_not_mem]
    intro g hg
    obtain ⟨i, u, hu, -⟩ := State.mem_tagsOf.1 hg
    rw [free] at hu; cases hu
  rw [State.channelReset_eq, tags, released]; rfl

theorem State.channelReset_sameRing {s : State} (free : ∀ i, s.tenancy i = none) (c : Channel) :
    s.SameRing (s.channelReset c) := by
  rw [State.channelReset_free free]
  exact ⟨rfl, (s.resetEvents_work c).free, rfl, rfl, rfl, rfl, rfl⟩

theorem State.moveIn_sameRing (c : Channel) (l : List DeferralItem) (s : State) (free : ∀ i, s.tenancy i = none) :
    s.SameRing (State.moveIn c l s) := by
  induction l with
  | nil => exact s.modifyChannel_sameRing _ _
  | cons x l ih =>
    cases x with
    | marker set => exact s.modifyChannel_sameRing _ _
    | entry i =>
      unfold State.moveIn
      simp only [free i]
      exact ih

/-! ### Station commands (R107, R121, R122) -/

/-- LEAVE has nothing left under way once it has acted at the line (R102, R121). -/
theorem State.lineLeave_quiet {s : State} (free : ∀ i, s.tenancy i = none) (waiting : s.lease.waiting = [])
    (changes : s.lease.changes = []) (sendList : s.frames.sendList = []) (view : s.station.view = [])
    (census : s.station.census = .none) (holdOff : s.station.holdOff = none) (interval : s.station.interval = none)
    (bypassed : s.line.mode ≠ .bypassed) (draining : s.line.mode ≠ .draining) : s.lineLeave.Quiet := by
  unfold State.lineLeave
  dsimp only
  split
  · exact ⟨free, waiting, changes, sendList, rfl, view, census, holdOff, interval, rfl⟩
  · exact ⟨free, waiting, changes, sendList, rfl, view, census, holdOff, interval, rfl⟩
  · exact ⟨free, waiting, changes, sendList, rfl, view, census, holdOff, interval, rfl⟩
  · exact ⟨free, waiting, changes, sendList, rfl, view, census, holdOff, interval, rfl⟩
  · next m => exact absurd m bypassed
  · next m => exact absurd m draining

/-- After LEAVE the line is DRAINING with the station leaving, or BYPASSED with the station OFFLINE (R102). -/
theorem State.lineLeave_modes {s : State} (leaving : s.station.leaving = true) (on : s.station.state ≠ .offline)
    (bypassed : s.line.mode ≠ .bypassed) (draining : s.line.mode ≠ .draining) :
    (s.lineLeave.station.state = .offline ↔ s.lineLeave.line.mode = .bypassed) ∧
      (s.lineLeave.station.leaving = true ↔ s.lineLeave.line.mode = .draining) := by
  unfold State.lineLeave
  dsimp only
  split
  · simp [leaving, on]
  · simp [State.bypassClosed]
  · simp [State.bypassClosed]
  · simp [State.bypassClosed]
  · next m => exact absurd m bypassed
  · next m => exact absurd m draining

theorem State.bypassClosed_timers {s : State} (b : s.RingTimers) : s.bypassClosed.RingTimers :=
  ⟨b.1, fun _ e => (by cases e), b.2.2⟩

theorem State.lineLeave_bounds {s : State} (b : s.Bounds) : s.lineLeave.Bounds := by
  have emptied (l : LineInterface) (r : l.receiver = .between) (t : l.transit = []) : l.InRange :=
    ⟨by rw [t]; exact Nat.zero_le _, by simp [r]⟩
  unfold State.lineLeave
  dsimp only
  split
  · exact ⟨b.1, emptied _ rfl rfl⟩
  · exact ⟨b.1, emptied _ rfl rfl⟩
  · exact ⟨b.1, emptied _ rfl rfl⟩
  · exact ⟨b.1, emptied _ rfl rfl⟩
  all_goals exact b

theorem State.lineLeave_timers {s : State} (b : s.RingTimers) : s.lineLeave.RingTimers := by
  have emptied : ((s.modifyLine ({ · with detector := .silent, receiver := .between, transit := [] })).modifyFrames
      ({ · with arrivals := [] })).RingTimers := ⟨b.1, b.2.1, fun _ e => (by cases e), b.2.2.2⟩
  unfold State.lineLeave
  dsimp only
  split
  · exact ⟨b.1, fun _ e => (by cases e), fun _ e => (by cases e), b.2.2.2⟩
  · exact State.bypassClosed_timers emptied
  · exact State.bypassClosed_timers emptied
  · exact State.bypassClosed_timers emptied
  all_goals exact b

/-- The block in the middle of a LEAVE, before the Line Interface acts (R121). -/
def State.leavingBlock (s : State) : State :=
  let s1 := s.modifyStation fun r =>
    { r with leaving := true, holdOff := none, interval := none, census := .none, censusLosses := 0, awaitsUpstream := false }
  let s3 := ((s1.freeEntries).setSendList []).modifyStation ({ · with view := [] })
  ((((s3.raiseVoid 0).raiseVoid 1).raiseVoid 2).raiseVoid 3).raiseRingState .left .offline none

theorem State.takeLeave_eq (s : State) : s.takeLeave = s.leavingBlock.lineLeave := rfl

theorem State.takeLeave_ringStep {s : State} (on : s.OnRing) (bypassed : s.line.mode ≠ .bypassed)
    (draining : s.line.mode ≠ .draining) : s.RingStep s.takeLeave := by
  rw [State.takeLeave_eq]
  refine ⟨⟨?_, ?_, fun _ => ?_⟩, fun b => ?_, fun _ b => ?_, fun _ => .inl on.1⟩
  · exact (State.lineLeave_modes (s := s.leavingBlock) rfl on.1 bypassed draining).1
  · exact (State.lineLeave_modes (s := s.leavingBlock) rfl on.1 bypassed draining).2
  · exact State.lineLeave_quiet (s := s.leavingBlock) (fun i => (State.freeEntries_tenancy _ i)) rfl rfl rfl rfl rfl rfl rfl
      bypassed draining
  · exact State.lineLeave_bounds ⟨⟨b.1.1, b.1.2.1, Nat.zero_le _, Nat.zero_le _⟩, b.2⟩
  · exact State.lineLeave_timers ⟨⟨fun _ e => (by cases e), fun _ e => (by cases e), fun _ _ _ e => (by cases e)⟩, b.2⟩

theorem State.RingStep.answer {s t : State} (h : s.RingStep t) (ch : Channel) (code echo : Byte) (status : Status)
    (values : ResultValues) : s.RingStep (t.answer ch code echo status values) :=
  ⟨(t.answer_sameRing _ _ _ _ _).stationLine h.line, h.bounds, h.timers, h.joins⟩

theorem State.execLeave_ringStep {s : State} (line : s.StationLine) (ch : Channel) (echo : Byte) :
    ∃ t, execLeave ch echo s = next t ∧ s.RingStep t := by
  refine ⟨_, rfl, State.channel0Only_of (.of_same line (.refl s)) (fun _ _ => .of_same line (s.answer_sameRing _ _ _ _ _)) ?_⟩
  split
  · exact .of_same line (s.answer_sameRing _ _ _ _ _)
  · next off =>
    rcases line.cases with ⟨on, bypassed, draining⟩ | rest
    · have judged := s.judgeWaiting_ringKept s.frames.arrivals
      have left := State.takeLeave_ringStep (s := State.judgeWaiting s.frames.arrivals s)
        ⟨fun e => on.1 (judged.offline.1 e), judged.leaving.trans on.2⟩ (fun e => bypassed (judged.bypassed.1 e))
        (fun e => draining (judged.draining.1 e))
      refine State.RingStep.answer ⟨left.line, fun b => left.bounds (judged.bounds b), fun c b => left.timers ?_ (judged.timers c b),
        fun _ => .inl on.1⟩ _ _ _ _ _
      rwa [State.SettingsInRange, judged.config]
    · exact absurd rest.off off

theorem State.takeStart_ringStep {s : State} (valid : s.config.valid = true) (leaving : s.station.leaving = false) :
    s.RingStep s.takeStart := by
  have joining : s.takeStart.station.state = .joining := rfl
  refine ⟨State.stationLine_of_onRing ⟨by simp [joining], ?_⟩ (by simp [State.takeStart]) (by simp [State.takeStart]),
    fun b => ⟨⟨Nat.zero_le _, Nat.zero_le _, Nat.zero_le _, b.1.2.2.2⟩, b.2⟩, fun _ b => ⟨⟨?_, ?_, ?_⟩, ?_, b.2.2⟩,
    fun _ => .inr valid⟩
  · exact leaving
  · exact fun _ e => by cases e
  · exact fun _ e => by cases e
  · exact fun _ _ _ e => by cases e
  · exact fun _ e => by cases e; exact Nat.le_refl _

theorem State.execStart_ringStep {s : State} (line : s.StationLine) (ch : Channel) (echo : Byte) :
    ∃ t, execStart ch echo s = next t ∧ s.RingStep t := by
  refine ⟨_, rfl, State.configCommand_of (.of_same line (.refl s)) (fun _ _ => .of_same line (s.answer_sameRing _ _ _ _ _))
    fun _ leaving => ?_⟩
  split
  · next valid => exact (State.takeStart_ringStep valid leaving).answer _ _ _ _ _
  · exact .of_same line (s.answer_sameRing _ _ _ _ _)

/-- The END of the draining frame closes the bypass (R102, R122). -/
theorem State.drained_ringStep {s : State} (line : s.StationLine) (draining : s.line.mode = .draining) :
    s.RingStep (s.modifyLine ({ · with transmitter := .ended })).bypassClosed := by
  rcases line.cases with ⟨-, -, other⟩ | rest
  · exact absurd draining other
  · exact ⟨⟨by simp [State.bypassClosed], by simp [State.bypassClosed], fun _ => rest.quiet⟩, id,
      fun _ b => ⟨b.1, fun _ e => (by cases e), b.2.2.1, fun _ _ e => (by cases e), fun _ e => (by cases e)⟩,
      fun off => absurd rfl off⟩

theorem State.Configures.ringStep {s t : State} (h : s.Configures t) (line : s.StationLine) : s.RingStep t := by
  have quiet := line.2.2 (.inl h.offline)
  have tenancy (i : EntryIx) : t.tenancy i = s.tenancy i := by simp [State.tenancy, State.entry, h.lease]
  refine ⟨⟨?_, ?_, fun _ => ?_⟩, by simp [State.Bounds, h.station, h.line],
    fun _ => by simp [State.RingTimers, h.station, h.line], by rw [h.station]; exact .inl⟩
  · rw [h.station, h.line]; exact line.1
  · rw [h.station, h.line]; exact line.2.1
  · unfold State.Quiet at quiet ⊢
    simpa only [tenancy, h.lease, h.frames, h.station, h.line] using quiet

end Sys2Proof.Machine

namespace Sys2Proof.Machine

open Host.Outcome

/-! ### The clock at rest -/

theorem State.Quiet.of_same {s t : State} (q : s.Quiet) (lease : t.lease = s.lease) (frames : t.frames = s.frames)
    (station : t.station = s.station) (transit : t.line.transit = s.line.transit) : t.Quiet := by
  have tenancy (i : EntryIx) : t.tenancy i = s.tenancy i := by simp [State.tenancy, State.entry, lease]
  unfold State.Quiet at q ⊢
  simpa only [tenancy, lease, frames, station, transit] using q

theorem State.wordTime_quiet {s : State} (q : s.Quiet) : s.wordTime.Quiet := by
  unfold State.wordTime
  repeat' split
  all_goals exact q.of_same rfl rfl rfl rfl

theorem State.milliTick_quiet {s : State} (q : s.Quiet) : s.milliTick.Quiet := by
  obtain ⟨free, waiting, changes, sendList, arrivals, view, census, holdOff, interval, transit⟩ := q
  refine ⟨fun i => by rw [State.milliTick_tenancy, free i]; rfl, waiting, changes, sendList, arrivals, view, ?_, ?_, ?_, transit⟩
  · simp [State.milliTick, StationRecord.tick, census, Census.tick]
  · simp [State.milliTick, StationRecord.tick, holdOff]
  · simp [State.milliTick, StationRecord.tick, interval]

theorem State.clockPeriod_quiet {s : State} (q : s.Quiet) : s.clockPeriod.Quiet := by
  have word (p : Nat) (u : State) (q : u.Quiet) : (if p % Config.clocksPerWord = 0 then u.wordTime else u).Quiet := by
    split
    · exact State.wordTime_quiet q
    · exact q
  have micro (p : Nat) (u : State) (q : u.Quiet) : (if p % Config.clocksPerMicro = 0 then u.microTick else u).Quiet := by
    split
    · exact q.of_same rfl rfl rfl rfl
    · exact q
  have milli (p : Nat) (u : State) (q : u.Quiet) : (if p = 0 then u.milliTick else u).Quiet := by
    split
    · exact State.milliTick_quiet q
    · exact q
  exact milli _ _ (micro _ _ (word _ _ (q.of_same rfl rfl rfl rfl)))

/-- An event that keeps what a station on the ring keeps, and that leaves nothing under way where nothing was. -/
theorem State.RingStep.of_quiet {s t : State} (line : s.StationLine) (h : s.RingKept t) (quiet : s.Quiet → t.Quiet) :
    s.RingStep t where
  line := by
    refine ⟨h.offline.trans (line.1.trans h.bypassed.symm), ?_, fun off => quiet (line.2.2 ?_)⟩
    · rw [h.leaving, h.draining]; exact line.2.1
    · rwa [h.offline, h.leaving] at off
  bounds := h.bounds
  timers := h.timers
  joins := fun e => .inl fun k => e (h.offline.2 k)

theorem State.idle_ringStep {s : State} (line : s.StationLine) : s.RingStep s.idle := by
  unfold State.idle
  split
  · exact .of_same line ⟨rfl, fun _ h => h, rfl, rfl, rfl, rfl, rfl⟩
  · exact .of_quiet line s.clockPeriod_ringKept State.clockPeriod_quiet

/-! ### Commands and events -/

/-- An event of an entry that is not FREE: a station at rest has none. -/
theorem State.RingStep.of_entry {s t : State} (line : s.StationLine) {i : EntryIx} {v : Tenancy} (h : s.tenancy i = some v)
    (k : s.LeaseWork t) : s.RingStep t :=
  .of line (fun _ => k.ringKept) fun rest => by have := rest.quiet.1 i; rw [h] at this; cases this

theorem State.RingStep.of_answer {s : State} (line : s.StationLine) (ch : Channel) (code echo : Byte) (status : Status)
    (values : ResultValues) : s.RingStep (s.answer ch code echo status values) :=
  .of_same line (s.answer_sameRing _ _ _ _ _)

theorem State.RingStep.of_refl {s : State} (line : s.StationLine) : s.RingStep s := .of_same line (.refl s)

/-- An event of the mode INSERTED. -/
theorem State.RingStep.of_inserted {s t : State} (line : s.StationLine) (inserted : s.line.mode = .inserted)
    (h : s.RingKept t) : s.RingStep t :=
  .of line (fun _ => h) fun rest => by have := rest.mode; simp [inserted] at this

theorem State.execClaim_ringStep {s : State} (line : s.StationLine) (ch : Channel) (echo : Byte) (tag : Tag)
    (mode priority : Byte) (term : Word) (limit : Byte) :
    ∃ t, execClaim ch echo tag mode priority term limit s = next t ∧ s.RingStep t := by
  obtain ⟨t, ht, k⟩ := s.execClaim_cases ch echo tag mode priority term limit
  refine ⟨t, ht, ?_⟩
  rcases k with rfl | ⟨status, rfl⟩ | ⟨i, u, r, x, status, values, opens, -, -, -, work, -, rfl⟩
  · exact .of_refl line
  · exact .of_answer line _ _ _ _ _
  · have opened : s.RingKept r := State.ringKept_of_records opens.config opens.station opens.line
    refine .of line (fun _ => opened.trans (work.ringKept.trans (State.answer_ringKept _ _ _ _ _ _))) fun rest => ?_
    have := rest.off
    simp [opens.up] at this

theorem State.execRelease_ringStep {s : State} (line : s.StationLine) (ch : Channel) (echo index generation : Byte) :
    ∃ t, execRelease ch echo index generation s = next t ∧ s.RingStep t := by
  refine ⟨_, rfl, State.handleCommand_of (.of_refl line) (.of_answer line _ _ _) fun i v names => ?_⟩
  exact (State.RingStep.of_entry line names.2.1 ((s.discardDeferred_work i).trans (State.releaseEntry_work _ _ _))).answer ..

theorem State.execRenew_ringStep {s : State} (line : s.StationLine) (ch : Channel) (echo index generation : Byte)
    (term : Word) : ∃ t, execRenew ch echo index generation term s = next t ∧ s.RingStep t := by
  refine ⟨_, rfl, State.handleCommand_of (.of_refl line) (.of_answer line _ _ _) fun i v names => ?_⟩
  split
  · exact .of_answer line _ _ _ _ _
  · split
    · have renewed : s.RingKept (s.modifyTenancy i (Tenancy.renew term.toNat)) := State.ringKept_of_records rfl rfl rfl
      refine State.RingStep.answer (.of line (fun _ => renewed) fun rest => ?_) _ _ _ _ _
      have := rest.quiet.1 i
      rw [names.2.1] at this; cases this
    · exact .of_answer line _ _ _ _ _

theorem State.channelReset_ringStep {s : State} (line : s.StationLine) (c : Channel) : s.RingStep (s.channelReset c) :=
  .of line (fun _ => (s.channelReset_work c).ringKept) fun rest => State.channelReset_sameRing rest.quiet.1 c

theorem State.execResetChannelN_ringStep {s : State} (line : s.StationLine) (ch : Channel) (echo target : Byte) :
    ∃ t, execResetChannelN ch echo target s = next t ∧ s.RingStep t := by
  refine ⟨_, rfl, State.channel0Only_of (.of_refl line) (.of_answer line _ _ _) ?_⟩
  dsimp only
  split
  · exact .of_answer line _ _ _ _ _
  · exact ((State.channelReset_ringStep line _).answer ..).answer ..

theorem State.readEvent_ringStep {s : State} (line : s.StationLine) (c : Channel) : s.RingStep (s.readEvent c) := by
  unfold State.readEvent
  split
  · exact .of_same line (s.modifyChannel_sameRing _ _)
  · next record rest _ =>
    have read : s.RingKept (s.modifyChannel c ({ · with queue := rest, readCopy := .event record })) :=
      State.ringKept_of_records rfl rfl rfl
    refine .of line (fun _ => read.trans (State.moveIn_work _ _ _).ringKept) fun resting => ?_
    exact (s.modifyChannel_sameRing _ _).trans (State.moveIn_sameRing _ _ _ resting.quiet.1)

theorem State.AnswersOrConfigures.ringStep {s t : State} (h : s.AnswersOrConfigures t) (line : s.StationLine) :
    s.RingStep t := by
  rcases h with rfl | ⟨ch, code, echo, status, values, rfl⟩ | h
  · exact .of_refl line
  · exact .of_answer line _ _ _ _ _
  · exact h.ringStep line

/-! ### The timers of the entries -/

/-- What an event of one entry's timer does: lease work, and nothing at a FREE entry. -/
def State.EntryWork (s : State) (i : EntryIx) (t : State) : Prop := s.LeaseWork t ∧ (s.tenancy i = none → t = s)

theorem State.EntryWork.refl (s : State) (i : EntryIx) : s.EntryWork i s := ⟨.refl s, fun _ => rfl⟩

theorem State.LeaseWork.entry {s t : State} (k : s.LeaseWork t) {i : EntryIx} {v : Tenancy} (h : s.tenancy i = some v) :
    s.EntryWork i t := ⟨k, fun e => by rw [h] at e; cases e⟩

theorem State.RingStep.of_entryWork {s t : State} (line : s.StationLine) {i : EntryIx} (h : s.EntryWork i t) : s.RingStep t :=
  .of line (fun _ => h.1.ringKept) fun rest => h.2 (rest.quiet.1 i) ▸ .refl s

theorem State.execTermTick_entryWork (s : State) (i : EntryIx) :
    ∃ t, execTermTick i s = next t ∧ s.EntryWork i t := by
  refine ⟨_, rfl, ?_⟩
  split
  · exact .refl s i
  · next v h =>
    split
    · split
      · exact State.LeaseWork.entry ((s.leaseWork_modifyTenancy _ _ (by simp)).trans (State.raiseLease_work _ _ _ _)) h
      · exact State.LeaseWork.entry (s.leaseWork_modifyTenancy _ _ (by simp)) h
    all_goals exact .refl s i

theorem State.execTermExpiry_entryWork (s : State) (i : EntryIx) :
    ∃ t, execTermExpiry i s = next t ∧ s.EntryWork i t := by
  refine ⟨_, rfl, ?_⟩
  split
  · exact .refl s i
  · next v h =>
    split
    · exact State.LeaseWork.entry ((s.raiseLease_work _ _ _).trans (State.releaseHeld_work _ _ _)) h
    all_goals exact .refl s i

theorem State.execBackoffExpiry_entryWork (s : State) (i : EntryIx) :
    ∃ t, execBackoffExpiry i s = next t ∧ s.EntryWork i t := by
  refine ⟨_, rfl, ?_⟩
  split
  · exact .refl s i
  · next v h =>
    split
    · exact State.LeaseWork.entry (s.enterClaiming_work i) h
    all_goals exact .refl s i

theorem State.execClaimCircuitTimeout_entryWork (s : State) (i : EntryIx) :
    ∃ t, execClaimCircuitTimeout i s = next t ∧ s.EntryWork i t := by
  refine ⟨_, rfl, ?_⟩
  split
  · exact .refl s i
  · next v h =>
    split
    · split
      · exact State.LeaseWork.entry (s.failAttempt_work _ _ _) h
      · exact State.LeaseWork.entry (s.endAndExamine_work _ _) h
    all_goals exact .refl s i

theorem State.execReleaseCircuitTimeout_entryWork (s : State) (i : EntryIx) :
    ∃ t, execReleaseCircuitTimeout i s = next t ∧ s.EntryWork i t := by
  refine ⟨_, rfl, ?_⟩
  split
  · exact .refl s i
  · next v h =>
    split
    · exact State.LeaseWork.entry (s.endAndExamine_work _ _) h
    all_goals exact .refl s i

theorem State.takeChange_ringStep {s : State} (line : s.StationLine) : s.RingStep s.takeChange := by
  refine .of line (fun _ => s.takeChange_ringKept) fun rest => ?_
  have none_left : s.takeChange = s := by
    unfold State.takeChange
    rw [rest.quiet.2.2.1]
  rw [none_left]
  exact .refl s

/-! ### The line and the station -/

theorem State.execFrameArrival_ringStep {s : State} (line : s.StationLine) :
    ∃ t, execFrameArrival s = next t ∧ s.RingStep t := by
  refine ⟨_, rfl, ?_⟩
  split
  · exact .of_refl line
  · next h =>
    refine .of line (fun _ => s.judgeNext_ringKept _ _) fun rest => ?_
    have := rest.quiet.2.2.2.2.1
    rw [h] at this; cases this

theorem State.execFrameBoundary_ringStep {s : State} (line : s.StationLine) :
    ∃ t, execFrameBoundary s = next t ∧ s.RingStep t := by
  refine ⟨_, rfl, ?_⟩
  split
  · next inserted _ => exact .of_inserted line inserted s.boundary_ringKept
  · next inserted _ => exact .of_inserted line inserted s.boundary_ringKept
  all_goals exact .of_refl line

theorem State.execFrameEndSent_ringStep {s : State} (line : s.StationLine) :
    ∃ t, execFrameEndSent s = next t ∧ s.RingStep t := by
  refine ⟨_, rfl, ?_⟩
  split
  · next inserted _ =>
    exact .of_inserted line inserted (s.setTransmitter_ringKept .ended rfl id (by simp) (by simp))
  · next draining => exact State.drained_ringStep line draining
  all_goals exact .of_refl line

theorem State.execDrainingEndSent_ringStep {s : State} (line : s.StationLine) :
    ∃ t, execDrainingEndSent s = next t ∧ s.RingStep t := by
  refine ⟨_, rfl, ?_⟩
  split
  · next draining => exact State.drained_ringStep line draining
  · exact .of_refl line

/-- The settled relay puts the station on the ring with its hold-off running (R101, R108). -/
theorem State.execRelaySettleExpiry_ringStep {s : State} (line : s.StationLine) :
    ∃ t, execRelaySettleExpiry s = next t ∧ s.RingStep t := by
  refine ⟨_, rfl, ?_⟩
  split
  · next timer settling =>
    refine .of line (fun _ => ?_) fun rest => by have := rest.mode; simp [settling] at this
    refine State.RingKept.trans (s.modifyLine_ringKept (by simp [settling]) (by simp [settling]) ?_ ?_)
      (State.modifyStation_ringKept _ rfl .rfl id ?_)
    · exact fun ⟨a, _⟩ => ⟨a, by simp⟩
    · exact fun _ => ⟨by simp, by simp, by simp, fun _ e => by cases e; decide⟩
    · refine fun ranges ⟨_, b, c⟩ => ⟨fun _ e => ?_, b, c⟩
      have := (Settings.inRange_bounds ranges).2.1
      cases e
      dsimp only [State.modifyLine] at this ⊢
      omega
  all_goals exact .of_refl line

theorem State.execLineWordReceived_ringStep {s : State} (line : s.StationLine) (w : LineWord) :
    ∃ t, execLineWordReceived w s = next t ∧ s.RingStep t := by
  have seen : s.RingKept (if wordIsValid w then s.detectWord else s) := by
    split
    · exact s.detectWord_ringKept
    · exact .refl s
  refine ⟨_, rfl, ?_⟩
  split
  · next inserted => exact .of_inserted line inserted (seen.trans (State.receive_ringKept _ _))
  · exact .of_refl line

theorem State.execUpstreamPresent_ringStep {s : State} (line : s.StationLine) :
    ∃ t, execUpstreamPresent s = next t ∧ s.RingStep t := by
  refine ⟨_, rfl, ?_⟩
  split
  · next here => exact .of_inserted line here.1 s.detectWord_ringKept
  · exact .of_refl line

theorem State.execUpstreamSilent_ringStep {s : State} (line : s.StationLine) :
    ∃ t, execUpstreamSilent s = next t ∧ s.RingStep t := by
  refine ⟨_, rfl, ?_⟩
  split
  · next here => exact .of_inserted line here.1 s.becomeSilent_ringKept
  · exact .of_refl line

/-- A change of the station record that keeps state, leaving and what lies in a range, and whose timers are in range. -/
theorem State.recordTimers_ringKept (s : State) {f : StationRecord → StationRecord}
    (leaving : (f s.station).leaving = s.station.leaving) (state : (f s.station).state = s.station.state)
    (range : s.station.InRange → (f s.station).InRange)
    (timers : s.SettingsInRange → s.station.TimersInRange → (f s.station).TimersInRange) : s.RingKept (s.modifyStation f) :=
  s.modifyStation_ringKept leaving (by rw [state]) range timers

theorem State.execJoinHoldOffExpiry_ringStep {s : State} (line : s.StationLine) :
    ∃ t, execJoinHoldOffExpiry s = next t ∧ s.RingStep t := by
  have ended := s.recordTimers_ringKept (f := ({ · with holdOff := none })) rfl rfl id fun _ ⟨_, b, c⟩ => ⟨by simp, b, c⟩
  refine ⟨_, rfl, ?_⟩
  split
  · exact .of_refl line
  · next running =>
    refine .of line (fun _ => ?_) fun rest => ?_
    · dsimp only
      split
      · exact ended.trans (State.addCensus_ringKept _)
      · exact ended.trans (State.recordTimers_ringKept _ rfl rfl id fun _ => id)
    · have := rest.quiet.2.2.2.2.2.2.2.1
      rw [running] at this; cases this

theorem State.nextInterval_le {s : State} (c : s.SettingsInRange) {timer : Nat} (h : s.nextInterval = some timer) :
    timer ≤ 2550 := by
  unfold State.nextInterval at h
  split at h
  · obtain rfl := Option.some.inj h; exact (Settings.inRange_bounds c).2.2.2
  · obtain rfl := Option.some.inj h; exact (Settings.inRange_bounds c).2.2.2
  all_goals cases h

theorem State.execCensusIntervalExpiry_ringStep {s : State} (line : s.StationLine) :
    ∃ t, execCensusIntervalExpiry s = next t ∧ s.RingStep t := by
  have counted := s.recordTimers_ringKept (f := ({ · with interval := s.nextInterval })) rfl rfl id
    fun ranges ⟨a, _, c⟩ => ⟨a, fun _ => State.nextInterval_le ranges, c⟩
  refine ⟨_, rfl, ?_⟩
  split
  · exact .of_refl line
  · next running =>
    refine .of line (fun _ => ?_) fun rest => ?_
    · dsimp only
      split
      · exact counted.trans (State.addCensus_ringKept _)
      · split
        · exact counted.trans (State.addCensus_ringKept _)
        · exact counted
      · split
        · exact counted.trans (State.addCensus_ringKept _)
        · split
          · exact counted.trans (State.recordTimers_ringKept _ rfl rfl id fun _ => id)
          · exact counted
      all_goals exact counted
    · have := rest.quiet.2.2.2.2.2.2.2.2.1
      rw [running] at this; cases this

theorem State.execCensusLoss_ringStep {s : State} (line : s.StationLine) :
    ∃ t, execCensusLoss s = next t ∧ s.RingStep t := by
  have lost := s.recordTimers_ringKept (f := ({ · with census := .none })) rfl rfl id fun _ ⟨a, b, _⟩ => ⟨a, b, by simp⟩
  refine ⟨_, rfl, ?_⟩
  split
  · exact .of_refl line
  · exact .of_refl line
  · next flying =>
    refine .of line (fun _ => ?_) fun rest => ?_
    · dsimp only
      split
      · exact lost.trans (State.recordTimers_ringKept _ rfl rfl id fun ranges ⟨a, _, c⟩ =>
          ⟨a, fun _ e => by obtain rfl := Option.some.inj e; exact (Settings.inRange_bounds ranges).2.2.2, c⟩)
      · split
        · refine lost.trans (State.RingKept.trans ?_ (State.addCensus_ringKept _))
          exact State.recordTimers_ringKept _ rfl rfl (fun ⟨a, b, _, d⟩ => ⟨a, b, Nat.le_refl _, d⟩) fun _ => id
        · exact lost.trans (State.enterDown_ringKept _ _)
      all_goals exact lost
    · have := rest.quiet.2.2.2.2.2.2.1
      rw [flying] at this; cases this

theorem State.execStationTimestampTick_ringStep {s : State} (line : s.StationLine) :
    ∃ t, execStationTimestampTick s = next t ∧ s.RingStep t := by
  refine ⟨_, rfl, ?_⟩
  split
  · exact .of_refl line
  · exact .of_quiet line (s.recordTimers_ringKept rfl rfl id fun _ => id) id

/-! ### A device reset and a step -/

theorem State.RingStep.of_next {s t : State} {x : Host.Outcome State Fault Refusal} (h : ∃ r, x = next r ∧ s.RingStep r)
    (e : x = next t) : s.RingStep t := by
  obtain ⟨r, hr, k⟩ := h
  rw [hr] at e; cases e
  exact k

theorem State.RingStep.of_port {s : State} (line : s.StationLine) (ch : Channel) (f : ChannelState → ChannelState) :
    s.RingStep (s.atPort fun s => s.modifyChannel ch f) :=
  State.atPort_of (.of_refl line) (.of_same line (s.modifyChannel_sameRing _ _))

theorem State.reset_stationLine : State.reset.StationLine :=
  ⟨by decide, by decide, fun _ => ⟨State.reset_tenancy, rfl, rfl, rfl, rfl, rfl, rfl, rfl, rfl, rfl⟩⟩

theorem State.reset_bounds : State.reset.Bounds :=
  ⟨⟨Nat.zero_le _, Nat.zero_le _, Nat.zero_le _, Nat.zero_le _⟩, Nat.zero_le _, fun _ _ _ e => by cases e⟩

theorem State.reset_ringTimers : State.reset.RingTimers :=
  ⟨⟨fun _ e => (by cases e), fun _ e => (by cases e), fun _ _ _ e => by cases e⟩, fun _ e => (by cases e),
    fun _ e => (by cases e), fun _ _ e => (by cases e), fun _ e => by cases e; decide⟩

/-- The values after a device reset (R92, R105, R126). -/
theorem State.RingStep.of_reset {s t : State} (lease : t.lease = State.reset.lease) (frames : t.frames = State.reset.frames)
    (station : t.station = State.reset.station) (line : t.line = State.reset.line) : s.RingStep t where
  line := by
    obtain ⟨off, draining, quiet⟩ := State.reset_stationLine
    refine ⟨by rwa [station, line], by rwa [station, line], fun h => ?_⟩
    rw [station] at h
    exact (quiet h).of_same lease frames station (by rw [line])
  bounds := fun _ => by rw [State.Bounds, station, line]; exact State.reset_bounds
  timers := fun _ _ => by rw [State.RingTimers, station, line]; exact State.reset_ringTimers
  joins := fun on => absurd (by rw [station]; rfl) on

theorem exec_ringStep {c : Instr} {s t : State} (line : s.StationLine) (h : exec c s = next t) : s.RingStep t := by
  cases c with
  | claim => exact .of_next (State.execClaim_ringStep line _ _ _ _ _ _ _) h
  | release => exact .of_next (State.execRelease_ringStep line _ _ _ _) h
  | renew => exact .of_next (State.execRenew_ringStep line _ _ _ _ _) h
  | query =>
    exact .of_next ⟨_, rfl, State.handleCommand_of (.of_refl line) (.of_answer line _ _ _) fun _ _ _ =>
      .of_answer line _ _ _ _ _⟩ h
  | status => exact .of_next ⟨_, rfl, State.atPort_of (.of_refl line) (.of_answer line _ _ _ _ _)⟩ h
  | members =>
    refine .of_next ⟨_, rfl, State.atPort_of (.of_refl line) ?_⟩ h
    split <;> exact .of_answer line _ _ _ _ _
  | resetChannel =>
    exact .of_next ⟨_, rfl, State.atPort_of (.of_refl line) ((State.channelReset_ringStep line _).answer ..)⟩ h
  | resetChannelN => exact .of_next (State.execResetChannelN_ringStep line _ _ _) h
  | start => exact .of_next (State.execStart_ringStep line _ _) h
  | leave => exact .of_next (State.execLeave_ringStep line _ _) h
  | configureStation =>
    obtain ⟨r, hr, k⟩ := s.execConfigureStation_cases _ _ _ _ _ _ _ _
    exact .of_next ⟨r, hr, k.ringStep line⟩ h
  | setChannelLimits =>
    obtain ⟨r, hr, k⟩ := s.execSetChannelLimits_cases _ _ _ _ _ _
    exact .of_next ⟨r, hr, k.ringStep line⟩ h
  | setWindow =>
    obtain ⟨r, hr, k⟩ := s.execSetWindow_cases _ _ _ _ _ _ _ _ _
    exact .of_next ⟨r, hr, k.ringStep line⟩ h
  | setRoute =>
    obtain ⟨r, hr, k⟩ := s.execSetRoute_cases _ _ _ _
    exact .of_next ⟨r, hr, k.ringStep line⟩ h
  | unknownCommand => exact .of_next ⟨_, rfl, State.atPort_of (.of_refl line) (.of_answer line _ _ _ _ _)⟩ h
  | shortWriteCommand => exact .of_next ⟨_, rfl, .of_port line _ _⟩ h
  | readEvent => exact .of_next ⟨_, rfl, State.atPort_of (.of_refl line) (State.readEvent_ringStep line _)⟩ h
  | readAttention => exact .of_next ⟨_, rfl, .of_port line _ _⟩ h
  | unknownOpcode => exact .of_next ⟨_, rfl, .of_port line _ _⟩ h
  | deviceReset => cases h; exact .of_reset rfl rfl rfl rfl
  | upstreamPresent => exact .of_next (State.execUpstreamPresent_ringStep line) h
  | upstreamSilent => exact .of_next (State.execUpstreamSilent_ringStep line) h
  | frameArrival => exact .of_next (State.execFrameArrival_ringStep line) h
  | frameBoundary => exact .of_next (State.execFrameBoundary_ringStep line) h
  | drainingEndSent => exact .of_next (State.execDrainingEndSent_ringStep line) h
  | relaySettleExpiry => exact .of_next (State.execRelaySettleExpiry_ringStep line) h
  | joinHoldOffExpiry => exact .of_next (State.execJoinHoldOffExpiry_ringStep line) h
  | censusIntervalExpiry => exact .of_next (State.execCensusIntervalExpiry_ringStep line) h
  | censusLoss => exact .of_next (State.execCensusLoss_ringStep line) h
  | termTick i =>
    obtain ⟨r, hr, k⟩ := s.execTermTick_entryWork i
    exact .of_next ⟨r, hr, .of_entryWork line k⟩ h
  | termExpiry i =>
    obtain ⟨r, hr, k⟩ := s.execTermExpiry_entryWork i
    exact .of_next ⟨r, hr, .of_entryWork line k⟩ h
  | backoffExpiry i =>
    obtain ⟨r, hr, k⟩ := s.execBackoffExpiry_entryWork i
    exact .of_next ⟨r, hr, .of_entryWork line k⟩ h
  | claimCircuitTimeout i =>
    obtain ⟨r, hr, k⟩ := s.execClaimCircuitTimeout_entryWork i
    exact .of_next ⟨r, hr, .of_entryWork line k⟩ h
  | releaseCircuitTimeout i =>
    obtain ⟨r, hr, k⟩ := s.execReleaseCircuitTimeout_entryWork i
    exact .of_next ⟨r, hr, .of_entryWork line k⟩ h
  | leaseTableTakesStateChange => exact .of_next ⟨_, rfl, State.takeChange_ringStep line⟩ h
  | lineWordReceived w => exact .of_next (State.execLineWordReceived_ringStep line w) h
  | frameEndSent => exact .of_next (State.execFrameEndSent_ringStep line) h
  | stationTimestampTick => exact .of_next (State.execStationTimestampTick_ringStep line) h
  | resetRelease => cases h; exact .of_same line ⟨rfl, fun _ h => h, rfl, rfl, rfl, rfl, rfl⟩

end Sys2Proof.Machine

namespace Sys2Proof.Machine

open Host.Outcome

/-! ### Counting the entries of a channel (R13) -/

/-- The entries a channel owns. -/
def State.ownedBy (s : State) (c : Channel) : Finset EntryIx :=
  (allIx.filter (s.entryMeets fun t => t.owner == c)).toFinset

theorem State.mem_ownedBy {s : State} {c : Channel} {i : EntryIx} :
    i ∈ s.ownedBy c ↔ ∃ t, s.tenancy i = some t ∧ t.owner = c := by
  simp [State.ownedBy, State.entryMeets_iff, allIx]

theorem State.card_ownedBy (s : State) (c : Channel) : (s.ownedBy c).card = s.nonFree c := by
  have distinct : (allIx.filter (s.entryMeets fun t => t.owner == c)).Nodup := List.Nodup.filter _ (List.nodup_finRange 64)
  rw [State.ownedBy, List.toFinset_card_of_nodup distinct, State.nonFree, List.countP_eq_length_filter]

theorem ConfigStore.quotaSum_eq (x : ConfigStore) : x.quotaSum = ∑ c : Channel, (x.limits.get c).quota := by
  rw [Fin.sum_univ_four]; rfl

/-- Where entries only go or change with their owners, no channel's count grows. -/
theorem State.nonFree_le {s t : State} (h : ∀ i u, t.tenancy i = some u → ∃ v, s.tenancy i = some v ∧ u.owner = v.owner)
    (c : Channel) : t.nonFree c ≤ s.nonFree c := by
  rw [← State.card_ownedBy, ← State.card_ownedBy]
  refine Finset.card_le_card fun i hi => ?_
  obtain ⟨u, hu, rfl⟩ := State.mem_ownedBy.1 hi
  obtain ⟨v, hv, e⟩ := h i u hu
  exact State.mem_ownedBy.2 ⟨v, hv, e.symm⟩

theorem State.nonFree_of_free {s : State} (h : ∀ i, s.tenancy i = none) (c : Channel) : s.nonFree c = 0 := by
  rw [← State.card_ownedBy, Finset.card_eq_zero, Finset.eq_empty_iff_forall_notMem]
  intro i hi
  obtain ⟨u, hu, -⟩ := State.mem_ownedBy.1 hi
  rw [h] at hu; cases hu

theorem State.Opens.nonFree_le {s t : State} {i : EntryIx} {u : Tenancy} (h : s.Opens i u t) (c : Channel) :
    t.nonFree c ≤ s.nonFree c + if c = u.owner then 1 else 0 := by
  have others {j : EntryIx} (ne : j ≠ i) (hj : j ∈ t.ownedBy c) : j ∈ s.ownedBy c := by
    rw [State.mem_ownedBy, h.others_tenancy ne] at hj; exact State.mem_ownedBy.2 hj
  rw [← State.card_ownedBy, ← State.card_ownedBy]
  split
  · refine le_trans (Finset.card_le_card (t := insert i (s.ownedBy c)) fun j hj => ?_) (Finset.card_insert_le _ _)
    by_cases ej : j = i
    · exact ej ▸ Finset.mem_insert_self _ _
    · exact Finset.mem_insert_of_mem (others ej hj)
  · next ne =>
    refine Finset.card_le_card fun j hj => others (fun ej => ?_) hj
    obtain ⟨w, hw, o⟩ := State.mem_ownedBy.1 hj
    rw [ej, h.after] at hw
    exact ne (o ▸ congrArg Tenancy.owner (Option.some.inj hw).symm)

/-! ### The quotas (R13, R175) -/

theorem State.TableKept.quotaHeld {s t : State} (h : s.TableKept t) (q : s.QuotaHeld) : t.QuotaHeld := fun c => by
  rw [State.limits, h.config]
  exact (State.nonFree_le h.owners c).trans (q c)

theorem State.quotaHeld_of_free {s : State} (h : ∀ i, s.tenancy i = none) : s.QuotaHeld := fun c => by
  rw [State.nonFree_of_free h]; exact Nat.zero_le _

/-- The check of the quota leaves room for the entry that a CLAIM opens. -/
theorem State.Opens.quotaHeld {s t : State} {i : EntryIx} {u : Tenancy} (h : s.Opens i u t) (q : s.QuotaHeld) :
    t.QuotaHeld := fun c => by
  rw [State.limits, h.config]
  have opened := h.nonFree_le c
  split at opened
  · next e => subst e; exact opened.trans h.quota
  · exact opened.trans (q c)

/-- An event keeps the quotas in force, in every state in which the station record and the line agree. -/
theorem State.LeaseOutcome.quotas {s t : State} (h : s.LeaseOutcome t) (ring : s.RingStep t) (line : s.StationLine)
    (fit : s.QuotasFit) (held : s.QuotaHeld) : t.QuotasFit ∧ t.QuotaHeld := by
  have fits (config : t.config = s.config) : t.QuotasFit := fun on => by
    rw [config]
    rcases ring.joins on with off | valid
    · exact fit off
    · simp only [ConfigStore.valid, Bool.and_eq_true, decide_eq_true_eq] at valid
      exact valid.2
  cases h with
  | kept k => exact ⟨fits k.config, k.quotaHeld held⟩
  | opens i u r opens k => exact ⟨fits (k.config.trans opens.config), k.quotaHeld (opens.quotaHeld held)⟩
  | configures k =>
    have quiet := line.2.2 (.inl k.offline)
    refine ⟨fun on => absurd (k.station ▸ k.offline) on, State.quotaHeld_of_free fun i => ?_⟩
    simpa [State.tenancy, State.entry, k.lease] using quiet.1 i
  | resets free _ _ config => exact ⟨fun _ => by rw [config]; decide, State.quotaHeld_of_free free⟩

/-- Settles O15: every step keeps every channel within its quota. -/
theorem stepKeepsQuotas : Obligations.StepKeepsQuotas := fun s t ⟨line, fit, held⟩ h => by
  rcases step_cases h with ⟨-, rfl⟩ | ⟨c, rest, -, ran⟩
  · have ring := State.idle_ringStep line
    exact ⟨ring.line, (State.LeaseOutcome.kept s.idle_kept).quotas ring line fit held⟩
  · have popped : s.SameRing { s with pending := rest } := ⟨rfl, fun _ h => h, rfl, rfl, rfl, rfl, rfl⟩
    have ring := exec_ringStep (popped.stationLine line) ran
    exact ⟨ring.line, (exec_leaseOutcome ran).quotas ring (popped.stationLine line) fit held⟩

/-- Settles O21: by counting, 64 entries none of which is FREE would fill every quota. -/
theorem quotaLeavesAFreeEntry : Obligations.QuotaLeavesAFreeEntry := fun s ch held fits below => by
  cases found : s.lowestFree with
  | some i => exact ⟨i, (s.lowestFree_iff i).1 found⟩
  | none =>
    exfalso
    have owned (i : EntryIx) : i ∈ Finset.univ.biUnion s.ownedBy := by
      have taken : s.tenancy i ≠ none := by
        have := List.find?_eq_none.1 found i (List.mem_finRange i)
        simpa using this
      obtain ⟨t, ht⟩ := Option.ne_none_iff_exists'.1 taken
      exact Finset.mem_biUnion.2 ⟨t.owner, Finset.mem_univ _, State.mem_ownedBy.2 ⟨t, ht, rfl⟩⟩
    have counted : 64 ≤ ∑ c : Channel, s.nonFree c := calc
      64 = (Finset.univ : Finset EntryIx).card := (Finset.card_fin 64).symm
      _ ≤ (Finset.univ.biUnion s.ownedBy).card := Finset.card_le_card fun i _ => owned i
      _ ≤ ∑ c : Channel, (s.ownedBy c).card := Finset.card_biUnion_le
      _ = ∑ c : Channel, s.nonFree c := Finset.sum_congr rfl fun c _ => s.card_ownedBy c
    have room : ∑ c : Channel, s.nonFree c < s.config.quotaSum := by
      rw [ConfigStore.quotaSum_eq]
      exact Finset.sum_lt_sum (fun c _ => held c) ⟨ch, Finset.mem_univ _, below⟩
    omega

/-! ### The ranges (R2, R93 to R115, R166, R168) -/

theorem State.limitsInRange_of_config {s t : State} (config : t.config = s.config) (h : s.LimitsInRange) :
    t.LimitsInRange := State.limitsInRange_congr (by rw [config]) h

theorem ConfigStore.reset_limits (c : Channel) : ConfigStore.reset.limits.get c = Limits.default := by
  simp [ConfigStore.reset, Vector.get_eq_getElem]

/-- An event keeps the entries, the settings, the limits and the timers of the entries in their ranges. -/
theorem State.LeaseOutcome.ranges {s t : State} (h : s.LeaseOutcome t) (line : s.StationLine) (settings : s.SettingsInRange) :
    (s.EntriesInRange → t.EntriesInRange) ∧ t.SettingsInRange ∧ (s.LimitsInRange → t.LimitsInRange) ∧
      (s.EntryTimers → t.EntryTimers) := by
  have none_free {u : State} (free : ∀ i, u.tenancy i = none) : u.EntriesInRange ∧ u.EntryTimers :=
    ⟨fun i v hv => (by rw [free] at hv; cases hv), fun i v hv => (by rw [free] at hv; cases hv)⟩
  cases h with
  | kept k =>
    exact ⟨k.range, by rwa [State.SettingsInRange, k.config], State.limitsInRange_of_config k.config, k.timers settings⟩
  | opens i u r opens k =>
    have settings' : r.SettingsInRange := by rwa [State.SettingsInRange, opens.config]
    exact ⟨fun e => k.range (opens.entriesInRange e), by rwa [State.SettingsInRange, k.config],
      fun l => State.limitsInRange_of_config (k.config.trans opens.config) l, fun e => k.timers settings' (opens.entryTimers e)⟩
  | configures k =>
    have quiet := line.2.2 (.inl k.offline)
    obtain ⟨entries, timers⟩ := none_free (u := t) fun i => by
      simpa [State.tenancy, State.entry, k.lease] using quiet.1 i
    exact ⟨fun _ => entries, k.settings settings, k.limits, fun _ => timers⟩
  | resets free _ _ config =>
    obtain ⟨entries, timers⟩ := none_free free
    refine ⟨fun _ => entries, ?_, fun _ c => ?_, fun _ => timers⟩
    · rw [State.SettingsInRange, config]; decide
    · rw [State.limits, config, ConfigStore.reset_limits]; decide

/-- The ranges, the timers and the quotas, of a state whose station record and line agree. -/
theorem State.LeaseOutcome.fields {s t : State} (outcome : s.LeaseOutcome t) (ring : s.RingStep t) (line : s.StationLine)
    (entries : s.EntriesInRange) (transit : s.TransitBounded) (record : s.RecordInRange) (settings : s.SettingsInRange) :
    t.StationLine ∧ t.EntriesInRange ∧ t.TransitBounded ∧ t.RecordInRange ∧ t.SettingsInRange ∧
      (s.LimitsInRange → t.LimitsInRange) ∧ (s.TimersInRange → t.TimersInRange) := by
  obtain ⟨entries', settings', limits', timers'⟩ := outcome.ranges line settings
  obtain ⟨transit', record'⟩ := t.bounds_iff.1 (ring.bounds (s.bounds_iff.2 ⟨transit, record⟩))
  refine ⟨ring.line, entries' entries, transit', record', settings', limits', fun timers => ?_⟩
  obtain ⟨ofEntries, ofRing⟩ := s.timersInRange_iff.1 timers
  exact t.timersInRange_iff.2 ⟨timers' ofEntries, ring.timers settings ofRing⟩

/-- Settles O20: every step keeps every entry field, record item, setting, limit, store and timer in its range. -/
theorem stepKeepsFieldsInRange : Obligations.StepKeepsFieldsInRange :=
  fun s t ⟨line, entries, transit, record, settings⟩ h => by
    rcases step_cases h with ⟨-, rfl⟩ | ⟨c, rest, -, ran⟩
    · exact (State.LeaseOutcome.kept s.idle_kept).fields (State.idle_ringStep line) line entries transit record settings
    · have popped : s.SameRing { s with pending := rest } := ⟨rfl, fun _ h => h, rfl, rfl, rfl, rfl, rfl⟩
      have line' := popped.stationLine line
      exact (exec_leaseOutcome ran).fields (exec_ringStep line' ran) line' entries transit record settings

end Sys2Proof.Machine

namespace Sys2Proof.Machine

open Host.Outcome

/-! ### The reset state -/

/-- Settles O4: the reset state is written with these values. -/
theorem resetLeavesTheManualsValues : Obligations.ResetLeavesTheManualsValues := by
  have entry (i : EntryIx) : State.reset.entry i = { generation := 0, tenancy := none } := by
    simp [State.reset, LeaseTable.reset, State.entry, Vector.get_eq_getElem, Entry.reset]
  have channel (c : Channel) : State.reset.channel c = ChannelState.reset := State.reset_channel c
  have windows (c : Channel) : State.reset.windows c =
      #v[Window.everyTag, Window.disabled, Window.disabled, Window.disabled] := by
    simp [State.reset, ConfigStore.reset, State.windows, Vector.get_eq_getElem]
  refine ⟨entry, rfl, rfl, rfl, rfl, rfl, rfl, rfl, rfl, fun c => ?_, rfl, ConfigStore.reset_limits, fun c => ⟨?_, fun k hk => ?_⟩,
    rfl⟩
  · rw [channel]; exact ⟨rfl, rfl, rfl, rfl⟩
  · rw [windows]; rfl
  · rw [windows]
    match k, hk with
    | 1, _ => rfl
    | 2, _ => rfl
    | 3, _ => rfl

/-- Settles O11: with every entry FREE and every list empty, each invariant holds. -/
theorem resetMeetsTheInvariants : Obligations.ResetMeetsTheInvariants := by
  have free := State.reset_tenancy
  have channel := State.reset_channel
  have settings : State.reset.SettingsInRange := rfl
  have limits (c : Channel) : State.reset.limits c = Limits.default := ConfigStore.reset_limits c
  have waiting : State.reset.lease.waiting = [] := rfl
  have sendList : State.reset.frames.sendList = [] := rfl
  have census : State.reset.station.census = .none := rfl
  have line := State.reset_stationLine
  have no_tenancy {p : Prop} {i : EntryIx} {t : Tenancy} (h : State.reset.tenancy i = some t) : p := by
    rw [free] at h; cases h
  obtain ⟨transit, record⟩ := State.reset.bounds_iff.1 State.reset_bounds
  refine ⟨fun c => ?_, fun _ _ _ _ _ h => no_tenancy h, line, fun off => absurd rfl off, State.quotaHeld_of_free free, ?_, ?_,
    ?_, ⟨fun _ _ h => no_tenancy h, fun _ _ _ _ _ h => no_tenancy h⟩, fun _ _ h => no_tenancy h, transit, record, settings,
    fun c => ?_,
    State.reset.timersInRange_iff.2 ⟨fun _ _ h => no_tenancy h,
      State.reset_ringTimers⟩⟩
  · rw [channel]; exact ⟨Nat.zero_le _, fun h => absurd rfl h⟩
  · exact ⟨List.nodup_nil, fun i => by simp [free, waiting]⟩
  · exact ⟨List.nodup_nil, by simp [free, sendList, census]⟩
  · exact ⟨fun c => by rw [channel]; simp [free, ChannelState.reset], fun _ _ h => no_tenancy h⟩
  · rw [limits]; decide

end Sys2Proof.Machine

namespace Sys2Proof.Machine

open Host.Outcome

/-! ### CLAIM by its acceptance case (R18 to R20) -/

theorem State.atPort_high {s : State} (high : s.rstnLow = false) (act : State → State) : s.atPort act = act s := by
  simp [State.atPort, high]

/-- A CLAIM that passes its checks is answered with its acceptance in the lowest FREE entry (R3, R151). -/
theorem State.execClaim_accepts {s : State} {ch : Channel} {tag : Tag} {mode priority : Byte} {term : Word} {limit : Byte}
    {m : Mode} {i : EntryIx} (high : s.rstnLow = false) (passes : s.ClaimPasses ch tag mode priority term limit m)
    (free : s.LowestFree i) {t : State} {status : Status}
    (accepted : s.accept i (newTenancy ch tag m priority.toNat term.toNat limit.toNat) = (t, status)) (echo : Byte) :
    exec (.claim ch echo tag mode priority term limit) s =
      next (t.answer ch 0x10 echo status (claimValues i ((s.entry i).generation + 1) term.toNat status)) := by
  simp only [exec, execClaim, State.atPort_high high, State.checkClaim_ok passes, (s.lowestFree_iff i).2 free, accepted]

/-- Settles O25: on a free tag without waiters acceptance comes to its case 3. -/
theorem claimGoesToTheRing : Obligations.ClaimGoesToTheRing :=
  fun s ch echo tag mode priority term limit m i high passes free list blocked held => by
    have claims := (s.acceptance_eq tag m).2.2.2 blocked held
    exact State.execClaim_accepts high passes free
      (State.accept_claims (t := newTenancy ch tag m priority.toNat term.toNat limit.toNat) i list claims) echo

/-- Settles O26: behind a waiter, or in case 1 or the waiting of case 2, acceptance appends to the wait list. -/
theorem claimWaits : Obligations.ClaimWaits :=
  fun s ch echo tag mode priority term limit m i high passes free why => by
    have waits (list : s.waitList tag = []) : s.acceptance tag m = .blocked ∨ s.acceptance tag m = .wait := by
      obtain ⟨case1, wait, -⟩ := s.acceptance_eq tag m
      by_cases blocked : s.Blocked tag
      · exact .inl (case1 blocked)
      · rcases why with waiter | case1 | ⟨held, exclusive⟩ | exclusive
        · exact absurd list waiter
        · exact absurd case1 blocked
        · exact .inr (wait blocked held (.inl exclusive))
        · exact .inr (wait blocked exclusive.heldOn (.inr exclusive))
    exact State.execClaim_accepts high passes free
      (State.accept_waits (t := newTenancy ch tag m priority.toNat term.toNat limit.toNat) i waits) echo

/-- A notice raised to a channel with room joins its queue (R132). -/
theorem State.raiseLease_queued {s : State} {i : EntryIx} {t : Tenancy} (h : s.tenancy i = some t) (room : s.RoomAt t.owner)
    (kind : LeaseKind) (marks : Marks) : s.raiseLease i kind marks =
      s.modifyChannel t.owner fun c => { c with queue := c.queue ++ [.lease (s.noticeOf i t kind marks)] } := by
  simp only [State.raiseLease, h, (s.hasRoom_iff _).2 room, if_true]
  rfl

/-- Else it is deferred in its entry's empty slot (R132). -/
theorem State.raiseLease_deferred {s : State} {i : EntryIx} {t : Tenancy} (h : s.tenancy i = some t)
    (room : ¬ s.RoomAt t.owner) (slot : t.deferred = none) (kind : LeaseKind) (marks : Marks) : s.raiseLease i kind marks =
      (s.modifyTenancy i ({ · with deferred := some (s.noticeOf i t kind marks) })).modifyChannel t.owner
        fun c => { c with deferral := c.deferral ++ [.entry i] } := by
  simp only [State.raiseLease, h, (s.hasRoom_false_iff _).2 room, slot, Bool.false_eq_true, if_false]
  rfl

/-- Settles O27: acceptance comes to the join of case 2, and GRANTED finds room or waits in the slot. -/
theorem claimJoins : Obligations.ClaimJoins :=
  fun s ch echo tag mode priority term limit i n high passes free list blocked held exclusive hn => by
    have joins := (s.acceptance_eq tag .shared).2.2.1 blocked held rfl exclusive
    have accepted := State.accept_joins (t := newTenancy ch tag .shared priority.toNat term.toNat limit.toNat) i list joins
    have joined := s.openedAt_tenancy i (opened ch tag .shared priority term limit (.held term.toNat false))
    have notice : (s.openedAt i (opened ch tag .shared priority term limit (.held term.toNat false))).noticeOf i
        (opened ch tag .shared priority term limit (.held term.toNat false)) (.granted .shared) {} = n := by
      rw [hn]
      simp [State.noticeOf, State.openedAt, opened]
    refine ⟨fun room => ?_, fun room => ?_⟩
    · have raised := State.raiseLease_queued joined room (.granted .shared) {}
      rw [notice] at raised
      rw [State.execClaim_accepts high passes free accepted]
      exact congrArg (fun x : State => next (x.answer ch 0x10 echo .grantedNow _)) raised
    · have raised := State.raiseLease_deferred joined room rfl (.granted .shared) {}
      rw [notice, State.openedAt_modifyTenancy] at raised
      rw [State.execClaim_accepts high passes free accepted]
      exact congrArg (fun x : State => next (x.answer ch 0x10 echo .grantedNow _)) raised

/-! ### Handles (R12, R154) and RELEASE (R67) -/

theorem State.handleCommand_bad {s : State} {ch : Channel} {index generation : Byte} (high : s.rstnLow = false)
    (bad : s.HandleBad ch index generation) (code echo : Byte) (act : EntryIx → Tenancy → State → State) :
    s.handleCommand ch code echo index generation act = s.answer ch code echo .badHandle .nothing := by
  simp only [State.handleCommand, State.atPort_high high, State.resolve_bad bad]

theorem State.handleCommand_gone {s : State} {ch : Channel} {index generation : Byte} (high : s.rstnLow = false)
    (gone : s.HandleGone ch index generation) (code echo : Byte) (act : EntryIx → Tenancy → State → State) :
    s.handleCommand ch code echo index generation act = s.answer ch code echo .gone .nothing := by
  simp only [State.handleCommand, State.atPort_high high, State.resolve_gone gone]

theorem State.handleCommand_found {s : State} {ch : Channel} {index generation : Byte} {i : EntryIx} {t : Tenancy}
    (high : s.rstnLow = false) (names : s.Names ch index generation i t) (code echo : Byte)
    (act : EntryIx → Tenancy → State → State) : s.handleCommand ch code echo index generation act = act i t s := by
  simp only [State.handleCommand, State.atPort_high high, State.resolve_found names]

/-- Settles O28: each of the three commands resolves its handle before anything else. -/
theorem badAndGoneHandlesChangeNothing : Obligations.BadAndGoneHandlesChangeNothing := fun s ch echo index generation term high => by
  refine ⟨fun bad => ⟨?_, ?_, ?_⟩, fun gone => ⟨?_, ?_, ?_⟩⟩
  · exact congrArg next (State.handleCommand_bad high bad ..)
  · exact congrArg next (State.handleCommand_bad high bad ..)
  · exact congrArg next (State.handleCommand_bad high bad ..)
  · exact congrArg next (State.handleCommand_gone high gone ..)
  · exact congrArg next (State.handleCommand_gone high gone ..)
  · exact congrArg next (State.handleCommand_gone high gone ..)

/-- RELEASE acts on the entry named, once its deferred notice has been discarded (R67). -/
theorem State.execRelease_found {s : State} {ch : Channel} {index generation : Byte} {i : EntryIx} {t : Tenancy}
    (high : s.rstnLow = false) (names : s.Names ch index generation i t) (echo : Byte) :
    exec (.release ch echo index generation) s =
      next (((s.discardDeferred i).releaseEntry i t).answer ch 0x11 echo .ok (.state t.state.name)) :=
  congrArg next (State.handleCommand_found high names ..)

/-- Settles O29: with its slot emptied, each entry that leaves becomes FREE. -/
theorem releaseOfAnEntryWithoutALease : Obligations.ReleaseOfAnEntryWithoutALease :=
  fun s d ch echo index generation i t high names hd => by
    have ended : d.endTenancy i = d.freed i := by
      rw [hd]; exact State.endTenancy_freed (State.discardDeferred_tenancy names.2.1) rfl
    rw [State.execRelease_found high names, ← hd]
    refine ⟨fun hs => ?_, fun lost hs => ?_, fun serial circuit lost hs => ?_, fun timer hs => ?_, fun hs => ?_⟩
    · have list : d.waitList t.tag = s.waitList t.tag := by rw [hd, State.discardDeferred_waitList]
      simp only [State.releaseEntry, hs, ended, list, EntryState.name]
    · simp only [State.releaseEntry, hs, State.endAndExamine, ended, EntryState.name]
    · simp only [State.releaseEntry, hs, State.detach, EntryState.name]
    · simp only [State.releaseEntry, hs, State.endAndExamine, ended, EntryState.name]
    · simp only [State.releaseEntry, hs, State.endAndExamine, ended, EntryState.name]

/-! ### The end of a tenancy and examinations (R9, R21 to R23, R141) -/

theorem DeferralItem.ne_entry_eq (i : EntryIx) : (fun x : DeferralItem => x != .entry i) = fun x => decide (x ≠ .entry i) := by
  funext x; simp [bne, Bool.beq_eq_decide_eq]

/-- Settles O43: by the slot of the entry. -/
theorem tenancyEndsInFreeOrClosing : Obligations.TenancyEndsInFreeOrClosing := fun s i t h => by
  refine ⟨fun slot => ⟨State.endTenancy_freed h slot, ?_⟩, fun n slot => ⟨State.endTenancy_closing h slot, ?_⟩⟩
  · simp only [State.discardDeferred, h, slot]
  · simp only [State.discardDeferred, h, slot, DeferralItem.ne_entry_eq]

/-- The entry taken out of the wait lists. -/
theorem State.leaveWaiting_eq (s : State) (i : EntryIx) :
    s.leaveWaiting i = s.setWaiting (s.lease.waiting.filter (· ≠ i)) := by
  simp [State.leaveWaiting, bne, Bool.beq_eq_decide_eq]

theorem denialCause_eq (x : StationState) : denialCause x = if x = .halted then .halted else .ringDown := by
  cases x <;> rfl

/-- Settles O44: by the acceptance case of the head. -/
theorem examinationTreatsTheHeads : Obligations.ExaminationTreatsTheHeads := fun s d tag i rest t => by
  refine ⟨State.examine_nil, fun list h hd => ?_⟩
  obtain ⟨-, wait, join, claim⟩ := s.acceptance_eq tag t.mode
  have left : s.leaveWaiting i = d := hd ▸ s.leaveWaiting_eq i
  have still : d.tenancy i = some t := by rw [hd]; exact h
  have head := State.examine_cons list h
  refine ⟨State.examine_blocked, fun free held conflict => ?_, fun free held shared exclusive => ?_, fun free held up => ?_,
    fun free held down => ?_⟩
  · exact State.examine_stays list h (.inr (wait free held conflict))
  · have treated : s.treatHead i tag t.mode = (d.grant i false, true) := by
      simp only [State.treatHead, join free held shared exclusive, left]
    rw [head, treated, State.grant_eq still, shared]
    rfl
  · have treated : s.treatHead i tag t.mode = (d.enterClaiming i, false) := by
      simp only [State.treatHead, claim free held, up, if_true, left]
    rw [head, treated, hd]
    rfl
  · have treated : s.treatHead i tag t.mode = (d.deny i (denialCause s.lease.taken) none, true) := by
      simp only [State.treatHead, claim free held, down, if_false, left]
    rw [head, treated, denialCause_eq]
    simp only [State.deny, still, if_true]

end Sys2Proof.Machine

namespace Sys2Proof.Machine

open Host.Outcome

/-! ### Generations (R4, R5) -/

/-- Every generation stays and no FREE entry is opened. -/
structure State.OpensNone (s t : State) : Prop where
  generation : ∀ i, (t.entry i).generation = (s.entry i).generation
  free : ∀ i, s.tenancy i = none → t.tenancy i = none

theorem State.BlockWork.opensNone {s t : State} (h : s.BlockWork t) : s.OpensNone t := ⟨h.generation, h.free⟩

theorem State.LeaseWork.opensNone {s t : State} (h : s.LeaseWork t) : s.OpensNone t := h.block.opensNone

theorem State.opensNone_of_lease {s t : State} (h : t.lease = s.lease) : s.OpensNone t :=
  ⟨fun i => by simp [State.entry, h], fun i => by simp [State.tenancy, State.entry, h]⟩

theorem State.OpensNone.refl (s : State) : s.OpensNone s := State.opensNone_of_lease rfl

theorem State.OpensNone.trans {s t u : State} (h : s.OpensNone t) (k : t.OpensNone u) : s.OpensNone u :=
  ⟨fun i => (k.generation i).trans (h.generation i), fun i e => k.free i (h.free i e)⟩

/-- Block work is only done after what leaves the Lease Table alone. -/
theorem State.OpensNone.under {s u t : State} (h : u.OpensNone t) (lease : u.lease = s.lease) : s.OpensNone t :=
  (State.opensNone_of_lease lease).trans h

theorem State.answer_opensNone (s : State) (ch : Channel) (code echo : Byte) (status : Status) (values : ResultValues) :
    s.OpensNone (s.answer ch code echo status values) := State.opensNone_of_lease rfl

theorem State.OpensNone.answer {s t : State} (h : s.OpensNone t) (ch : Channel) (code echo : Byte) (status : Status)
    (values : ResultValues) : s.OpensNone (t.answer ch code echo status values) := h.trans (t.answer_opensNone ..)

theorem State.modifyTenancy_opensNone (s : State) (i : EntryIx) (f : Tenancy → Tenancy) : s.OpensNone (s.modifyTenancy i f) :=
  ⟨fun j => by simp, fun j free => by
    rw [State.modifyTenancy_tenancy]
    split
    · next e => rw [e, free]; rfl
    · exact free⟩

theorem State.OpensNone.of_next {s t : State} {x : Host.Outcome State Fault Refusal} (h : ∃ r, x = next r ∧ s.OpensNone r)
    (e : x = next t) : s.OpensNone t := by
  obtain ⟨r, hr, k⟩ := h
  rw [hr] at e; cases e
  exact k

theorem State.atPort_opensNone {s : State} {act : State → State} (acts : s.OpensNone (act s)) : s.OpensNone (s.atPort act) :=
  State.atPort_of (.refl s) acts

theorem State.AnswersOrConfigures.opensNone {s t : State} (h : s.AnswersOrConfigures t) : s.OpensNone t := by
  rcases h with rfl | ⟨ch, code, echo, status, values, rfl⟩ | h
  · exact .refl _
  · exact State.answer_opensNone ..
  · exact State.opensNone_of_lease h.lease

theorem State.freeEntries_opensNone (s : State) : s.OpensNone s.freeEntries :=
  ⟨fun i => by simp [State.freeEntries, LeaseTable.freeAll, State.entry, Vector.get_eq_getElem],
    fun i _ => State.freeEntries_tenancy s i⟩

theorem State.leavingBlock_opensNone (s : State) : s.OpensNone s.leavingBlock :=
  State.OpensNone.under ((State.freeEntries_opensNone _).trans (State.opensNone_of_lease rfl)) rfl

theorem State.bypassClosed_opensNone (s : State) : s.OpensNone s.bypassClosed := ⟨fun _ => rfl, fun _ => id⟩

theorem State.lineLeave_opensNone (s : State) : s.OpensNone s.lineLeave := by
  unfold State.lineLeave
  dsimp only
  split
  · exact State.opensNone_of_lease rfl
  · exact ⟨fun _ => rfl, fun _ => id⟩
  · exact ⟨fun _ => rfl, fun _ => id⟩
  · exact ⟨fun _ => rfl, fun _ => id⟩
  all_goals exact .refl s

theorem State.judgeNext_opensNone (s : State) (a : Arrival) (rest : List Arrival) : s.OpensNone (s.judgeNext a rest) :=
  have judged := (s.judgeNext_judge a rest).block.opensNone
  ⟨judged.generation, judged.free⟩

theorem State.judgeWaiting_opensNone (l : List Arrival) (s : State) : s.OpensNone (State.judgeWaiting l s) := by
  induction l generalizing s with
  | nil => exact .refl s
  | cons a l ih => exact (s.judgeNext_opensNone a l).trans (ih _)

theorem State.execLeave_opensNone (s : State) (ch : Channel) (echo : Byte) :
    ∃ t, execLeave ch echo s = next t ∧ s.OpensNone t := by
  refine ⟨_, rfl, State.channel0Only_of (.refl s) (fun _ _ => s.answer_opensNone ..) ?_⟩
  split
  · exact s.answer_opensNone ..
  · exact ((State.judgeWaiting_opensNone _ s).trans
      ((State.leavingBlock_opensNone _).trans (State.lineLeave_opensNone _))).answer ..

theorem State.readEvent_opensNone (s : State) (c : Channel) : s.OpensNone (s.readEvent c) := by
  unfold State.readEvent
  split
  · exact State.opensNone_of_lease rfl
  · exact (State.moveIn_work _ _ _).opensNone.under rfl

theorem State.execRenew_opensNone (s : State) (ch : Channel) (echo index generation : Byte) (term : Word) :
    ∃ t, execRenew ch echo index generation term s = next t ∧ s.OpensNone t := by
  refine ⟨_, rfl, State.handleCommand_of (.refl s) (fun _ _ => s.answer_opensNone ..) fun i v names => ?_⟩
  split
  · exact s.answer_opensNone ..
  · split
    · exact (s.modifyTenancy_opensNone _ _).answer ..
    · exact s.answer_opensNone ..

theorem State.execResetChannelN_opensNone (s : State) (ch : Channel) (echo target : Byte) :
    ∃ t, execResetChannelN ch echo target s = next t ∧ s.OpensNone t := by
  refine ⟨_, rfl, State.channel0Only_of (.refl s) (fun _ _ => s.answer_opensNone ..) ?_⟩
  dsimp only
  split
  · exact s.answer_opensNone ..
  · exact ((s.channelReset_work _).opensNone.answer ..).answer ..

theorem State.originateItem_opensNone (s : State) (item : SendItem) : s.OpensNone (s.originateItem item) := by
  cases item with
  | claim i =>
    unfold State.originateItem
    dsimp only
    split
    · exact .refl s
    · split
      · exact (State.modifyTenancy_opensNone _ _ _).under rfl
      · exact .refl s
  | release i =>
    unfold State.originateItem
    dsimp only
    split
    · exact .refl s
    · split
      · exact (State.modifyTenancy_opensNone _ _ _).under rfl
      · exact .refl s
  | census => exact State.opensNone_of_lease rfl

theorem State.boundary_opensNone (s : State) : s.OpensNone s.boundary := by
  unfold State.boundary
  split
  · exact State.opensNone_of_lease rfl
  · split
    · exact (State.originateItem_opensNone _ _).under rfl
    · exact State.opensNone_of_lease rfl

/-! ### Events of line and station -/

theorem State.execFrameBoundary_opensNone (s : State) : ∃ t, execFrameBoundary s = next t ∧ s.OpensNone t := by
  refine ⟨_, rfl, ?_⟩
  split
  · exact s.boundary_opensNone
  · exact s.boundary_opensNone
  all_goals exact .refl s

theorem State.execFrameEndSent_opensNone (s : State) : ∃ t, execFrameEndSent s = next t ∧ s.OpensNone t := by
  refine ⟨_, rfl, ?_⟩
  split
  · exact State.opensNone_of_lease rfl
  · exact (State.bypassClosed_opensNone _).under rfl
  all_goals exact .refl s

theorem State.execDrainingEndSent_opensNone (s : State) : ∃ t, execDrainingEndSent s = next t ∧ s.OpensNone t := by
  refine ⟨_, rfl, ?_⟩
  split
  · exact (State.bypassClosed_opensNone _).under rfl
  · exact .refl s

theorem State.execRelaySettleExpiry_opensNone (s : State) : ∃ t, execRelaySettleExpiry s = next t ∧ s.OpensNone t := by
  refine ⟨_, rfl, ?_⟩
  split
  · exact State.opensNone_of_lease rfl
  all_goals exact .refl s

theorem State.execFrameArrival_opensNone (s : State) : ∃ t, execFrameArrival s = next t ∧ s.OpensNone t := by
  refine ⟨_, rfl, ?_⟩
  split
  · exact .refl s
  · exact s.judgeNext_opensNone _ _

theorem State.execUpstreamPresent_opensNone (s : State) : ∃ t, execUpstreamPresent s = next t ∧ s.OpensNone t := by
  refine ⟨_, rfl, ?_⟩
  split
  · exact s.detectWord_block.opensNone
  · exact .refl s

theorem State.execUpstreamSilent_opensNone (s : State) : ∃ t, execUpstreamSilent s = next t ∧ s.OpensNone t := by
  refine ⟨_, rfl, ?_⟩
  split
  · exact s.becomeSilent_block.opensNone
  · exact .refl s

theorem State.execLineWordReceived_opensNone (s : State) (w : LineWord) :
    ∃ t, execLineWordReceived w s = next t ∧ s.OpensNone t := by
  have seen : s.BlockWork (if wordIsValid w then s.detectWord else s) := by
    split
    · exact s.detectWord_block
    · exact .refl s
  refine ⟨_, rfl, ?_⟩
  split
  · exact (seen.trans (State.receive_block _ _)).opensNone
  · exact .refl s

theorem State.execJoinHoldOffExpiry_opensNone (s : State) : ∃ t, execJoinHoldOffExpiry s = next t ∧ s.OpensNone t := by
  refine ⟨_, rfl, ?_⟩
  split
  · exact .refl s
  · dsimp only
    split
    · exact (State.addCensus_judge _).block.opensNone.under rfl
    · exact State.opensNone_of_lease rfl

theorem State.execCensusIntervalExpiry_opensNone (s : State) : ∃ t, execCensusIntervalExpiry s = next t ∧ s.OpensNone t := by
  have counted : s.OpensNone (s.modifyStation ({ · with interval := s.nextInterval })) := State.opensNone_of_lease rfl
  have queued := counted.trans (State.addCensus_judge _).block.opensNone
  refine ⟨_, rfl, ?_⟩
  split
  · exact .refl s
  · dsimp only
    split
    · exact queued
    · split
      · exact queued
      · exact counted
    · split
      · exact queued
      · split
        · exact State.opensNone_of_lease rfl
        · exact counted
    all_goals exact counted

theorem State.execCensusLoss_opensNone (s : State) : ∃ t, execCensusLoss s = next t ∧ s.OpensNone t := by
  have lost : s.OpensNone (s.modifyStation ({ · with census := .none })) := State.opensNone_of_lease rfl
  refine ⟨_, rfl, ?_⟩
  split
  · exact .refl s
  · exact .refl s
  · dsimp only
    split
    · exact State.opensNone_of_lease rfl
    · split
      · exact (State.addCensus_judge _).block.opensNone.under rfl
      · exact lost.trans (State.enterDown_judge _ _).block.opensNone
    all_goals exact lost

/-! ### The two moments at which a generation changes -/

/-- A CLAIM opens at most the lowest FREE entry, for its channel and on its tag (R4). -/
theorem State.execClaim_opens {s t : State} {ch : Channel} {echo : Byte} {tag : Tag} {mode priority : Byte} {term : Word}
    {limit : Byte} (h : exec (.claim ch echo tag mode priority term limit) s = next t) (i : EntryIx) :
    (t.entry i).generation = (s.entry i).generation ∧ (s.tenancy i = none → t.tenancy i = none) ∨
      s.LowestFree i ∧ (∃ u, t.tenancy i = some u ∧ u.owner = ch ∧ u.tag = tag ∧ u.attached = true) ∧
        (t.entry i).generation = (s.entry i).generation + 1 := by
  obtain ⟨r, hr, k⟩ := s.execClaim_cases ch echo tag mode priority term limit
  obtain rfl : r = t := by
    have := hr.symm.trans h
    cases this; rfl
  rcases k with rfl | ⟨status, rfl⟩ | ⟨j, u, r, x, status, values, opens, owner, tagged, -, work, ⟨d, after⟩, rfl⟩
  · exact .inl ⟨rfl, id⟩
  · exact .inl ⟨rfl, id⟩
  · by_cases e : i = j
    · subst e
      refine .inr ⟨opens.free, ⟨_, after, owner, tagged, opens.attached⟩, ?_⟩
      exact (work.generation i).trans opens.generation
    · refine .inl ⟨(work.generation i).trans (congrArg Entry.generation (opens.others i e)), fun free => ?_⟩
      exact work.free i ((opens.others_tenancy e).trans free)

/-- What a command other than a CLAIM and a device reset does to the generations. -/
theorem exec_opensNone {c : Instr} {s t : State} (claims : ∀ ch echo tag mode priority term limit,
    c ≠ .claim ch echo tag mode priority term limit) (reset : c ≠ .deviceReset) (h : exec c s = next t) : s.OpensNone t := by
  have refused (status : Status) (values : ResultValues) (ch : Channel) (code echo : Byte) :
      s.OpensNone (s.answer ch code echo status values) := s.answer_opensNone ..
  cases c with
  | claim => exact absurd rfl (claims _ _ _ _ _ _ _)
  | deviceReset => exact absurd rfl reset
  | release =>
    exact .of_next ⟨_, rfl, State.handleCommand_of (.refl s) (fun _ _ => refused ..) fun i _ _ =>
      ((s.discardDeferred_work i).trans (State.releaseEntry_work _ _ _)).opensNone.answer ..⟩ h
  | renew => exact .of_next (s.execRenew_opensNone _ _ _ _ _) h
  | query =>
    exact .of_next ⟨_, rfl, State.handleCommand_of (.refl s) (fun _ _ => refused ..) fun _ _ _ => refused ..⟩ h
  | status => exact .of_next ⟨_, rfl, State.atPort_opensNone (refused ..)⟩ h
  | members =>
    refine .of_next ⟨_, rfl, State.atPort_opensNone ?_⟩ h
    split <;> exact refused ..
  | resetChannel => exact .of_next ⟨_, rfl, State.atPort_opensNone ((s.channelReset_work _).opensNone.answer ..)⟩ h
  | resetChannelN => exact .of_next (s.execResetChannelN_opensNone _ _ _) h
  | start =>
    refine .of_next ⟨_, rfl, State.configCommand_of (.refl s) (fun _ _ => refused ..) fun _ _ => ?_⟩ h
    split
    · exact ⟨fun _ => rfl, fun _ => id⟩
    · exact refused ..
  | leave => exact .of_next (s.execLeave_opensNone _ _) h
  | configureStation =>
    obtain ⟨r, hr, k⟩ := s.execConfigureStation_cases _ _ _ _ _ _ _ _
    exact .of_next ⟨r, hr, k.opensNone⟩ h
  | setChannelLimits =>
    obtain ⟨r, hr, k⟩ := s.execSetChannelLimits_cases _ _ _ _ _ _
    exact .of_next ⟨r, hr, k.opensNone⟩ h
  | setWindow =>
    obtain ⟨r, hr, k⟩ := s.execSetWindow_cases _ _ _ _ _ _ _ _ _
    exact .of_next ⟨r, hr, k.opensNone⟩ h
  | setRoute =>
    obtain ⟨r, hr, k⟩ := s.execSetRoute_cases _ _ _ _
    exact .of_next ⟨r, hr, k.opensNone⟩ h
  | unknownCommand => exact .of_next ⟨_, rfl, State.atPort_opensNone (refused ..)⟩ h
  | shortWriteCommand => exact .of_next ⟨_, rfl, State.atPort_opensNone (State.opensNone_of_lease rfl)⟩ h
  | readEvent => exact .of_next ⟨_, rfl, State.atPort_opensNone (s.readEvent_opensNone _)⟩ h
  | readAttention => exact .of_next ⟨_, rfl, State.atPort_opensNone (State.opensNone_of_lease rfl)⟩ h
  | unknownOpcode => exact .of_next ⟨_, rfl, State.atPort_opensNone (State.opensNone_of_lease rfl)⟩ h
  | upstreamPresent => exact .of_next s.execUpstreamPresent_opensNone h
  | upstreamSilent => exact .of_next s.execUpstreamSilent_opensNone h
  | frameArrival => exact .of_next s.execFrameArrival_opensNone h
  | frameBoundary => exact .of_next s.execFrameBoundary_opensNone h
  | drainingEndSent => exact .of_next s.execDrainingEndSent_opensNone h
  | relaySettleExpiry => exact .of_next s.execRelaySettleExpiry_opensNone h
  | joinHoldOffExpiry => exact .of_next s.execJoinHoldOffExpiry_opensNone h
  | censusIntervalExpiry => exact .of_next s.execCensusIntervalExpiry_opensNone h
  | censusLoss => exact .of_next s.execCensusLoss_opensNone h
  | termTick i =>
    obtain ⟨r, hr, k⟩ := s.execTermTick_entryWork i
    exact .of_next ⟨r, hr, k.1.opensNone⟩ h
  | termExpiry i =>
    obtain ⟨r, hr, k⟩ := s.execTermExpiry_entryWork i
    exact .of_next ⟨r, hr, k.1.opensNone⟩ h
  | backoffExpiry i =>
    obtain ⟨r, hr, k⟩ := s.execBackoffExpiry_entryWork i
    exact .of_next ⟨r, hr, k.1.opensNone⟩ h
  | claimCircuitTimeout i =>
    obtain ⟨r, hr, k⟩ := s.execClaimCircuitTimeout_entryWork i
    exact .of_next ⟨r, hr, k.1.opensNone⟩ h
  | releaseCircuitTimeout i =>
    obtain ⟨r, hr, k⟩ := s.execReleaseCircuitTimeout_entryWork i
    exact .of_next ⟨r, hr, k.1.opensNone⟩ h
  | leaseTableTakesStateChange => exact .of_next ⟨_, rfl, s.takeChange_judge.block.opensNone⟩ h
  | lineWordReceived w => exact .of_next (s.execLineWordReceived_opensNone w) h
  | frameEndSent => exact .of_next s.execFrameEndSent_opensNone h
  | stationTimestampTick =>
    refine .of_next ⟨_, rfl, ?_⟩ h
    split
    · exact .refl s
    · exact State.opensNone_of_lease rfl
  | resetRelease => cases h; exact State.opensNone_of_lease rfl

/-- Settles O23: of the commands, a CLAIM alone opens an entry, and a device reset alone takes the generations back. -/
theorem generationsChangeOnlyAtOpening : Obligations.GenerationsChangeOnlyAtOpening := fun c s t i h => by
  by_cases claims : ∃ ch echo tag mode priority term limit, c = .claim ch echo tag mode priority term limit
  · obtain ⟨ch, echo, tag, mode, priority, term, limit, rfl⟩ := claims
    rcases State.execClaim_opens h i with same | opened
    · exact .inl same
    · exact .inr (.inr ⟨ch, echo, tag, mode, priority, term, limit, rfl, opened⟩)
  · by_cases reset : c = .deviceReset
    · subst reset
      cases h
      have entry := resetLeavesTheManualsValues.1 i
      exact .inr (.inl ⟨rfl, congrArg Entry.generation entry, congrArg Entry.tenancy entry⟩)
    · have none_ := exec_opensNone (fun _ _ _ _ _ _ _ e => claims ⟨_, _, _, _, _, _, _, e⟩) reset h
      exact .inl ⟨none_.generation i, none_.free i⟩

end Sys2Proof.Machine

namespace Sys2Proof.Machine

open Host.Outcome

/-! ### The bytes of a record (R183 to R185, R188) -/

theorem byte_toNat {w : Nat} (x : BitVec w) : byte x.toNat = x.setWidth 8 :=
  BitVec.eq_of_toNat_eq (by simp [byte])

/-- The byte of a number that starts at a bit is that byte of its vector. -/
theorem byte_div {w : Nat} (x : BitVec w) (k : Nat) : byte (x.toNat / 2 ^ k) = x.extractLsb' k 8 :=
  BitVec.eq_of_toNat_eq (by simp [byte, BitVec.extractLsb'_toNat, Nat.shiftRight_eq_div_pow])

theorem four_toNat (t : BitVec 32) :
    four t.toNat = [t.extractLsb' 24 8, t.extractLsb' 16 8, t.extractLsb' 8 8, t.extractLsb' 0 8] := by
  rw [← byte_div t 24, ← byte_div t 16, ← byte_div t 8, ← byte_div t 0, Nat.pow_zero, Nat.div_one]
  rfl

theorem three_toNat (g : Tag) : three g.toNat = [g.extractLsb' 16 8, g.extractLsb' 8 8, g.extractLsb' 0 8] := by
  rw [← byte_div g 16, ← byte_div g 8, ← byte_div g 0, Nat.pow_zero, Nat.div_one]
  rfl

theorem optionalStation_some (n : StationNo) : optionalStation (some n) = 0x80 ||| n.setWidth 8 := by
  revert n; decide

theorem Marks.code_eq (m : Marks) : m.code =
    (if m.contended then 1 else 0) + (if m.expiring then 2 else 0) + (if m.handedOn then 4 else 0) +
      (if m.granted then 8 else 0) := by
  obtain ⟨contended, expiring, handedOn, granted⟩ := m
  revert contended expiring handedOn granted
  decide

theorem Suppressed.code_eq (x : Suppressed) : x.code =
    (if x.ring then 1 else 0) + (if x.membership then 2 else 0) + (if x.faults then 4 else 0) + (if x.void then 8 else 0) := by
  obtain ⟨ring, membership, faults, void⟩ := x
  revert ring membership faults void
  decide

theorem EventRecord.lease_bytes (n : LeaseNotice) {b13 b14 : Byte} (tail : n.kind.tailBytes = [b13, b14]) :
    (EventRecord.lease n).bytes =
      [n.kind.code, 0x00, n.timestamp.extractLsb' 24 8, n.timestamp.extractLsb' 16 8, n.timestamp.extractLsb' 8 8,
       n.timestamp.extractLsb' 0 8, BitVec.ofNat 8 n.index.val, n.generation.setWidth 8, n.tag.extractLsb' 16 8,
       n.tag.extractLsb' 8 8, n.tag.extractLsb' 0 8, n.marks.code, n.kind.byte12, b13, b14, 0] := by
  simp only [EventRecord.bytes, four_toNat, three_toNat, byte_toNat, tail]
  rfl

/-! ### READ EVENT (R135 to R139) -/

theorem exec_readEvent {s : State} (high : s.rstnLow = false) (ch : Channel) : exec (.readEvent ch) s = next (s.readEvent ch) :=
  congrArg next (State.atPort_high high _)

theorem State.readEvent_empty {s : State} {ch : Channel} (h : (s.channel ch).queue = []) :
    s.readEvent ch = s.modifyChannel ch ({ · with readCopy := .event (.empty s.station.timestamp) }) := by
  simp only [State.readEvent, h]

theorem State.readEvent_cons {s : State} {ch : Channel} {r : EventRecord} {rest : List EventRecord}
    (h : (s.channel ch).queue = r :: rest) : s.readEvent ch =
      State.moveIn ch (s.channel ch).deferral (s.modifyChannel ch ({ · with queue := rest, readCopy := .event r })) := by
  simp only [State.readEvent, h]

/-- With no item deferred the queue is one shorter. -/
theorem State.readEvent_alone {s : State} {ch : Channel} {r : EventRecord} {rest : List EventRecord}
    (h : (s.channel ch).queue = r :: rest) (none_ : (s.channel ch).deferral = []) :
    s.readEvent ch = s.modifyChannel ch ({ · with queue := rest, readCopy := .event r }) := by
  rw [State.readEvent_cons h, none_]
  simp only [State.moveIn, State.modifyChannel_modifyChannel]
  refine State.modifyChannel_congr ?_
  simp [none_]

theorem State.readEvent_summary {s : State} {ch : Channel} {r : EventRecord} {rest : List EventRecord} {set : Suppressed}
    {items : List DeferralItem} (h : (s.channel ch).queue = r :: rest) (marker : (s.channel ch).deferral = .marker set :: items) :
    s.readEvent ch = s.modifyChannel ch ({ · with
      queue := rest ++
        [.stationSummary s.station.timestamp s.station.view.length s.station.faultScore s.station.faultWarning set]
      deferral := items
      readCopy := .event r }) := by
  rw [State.readEvent_cons h, marker]
  simp only [State.moveIn, State.modifyChannel_modifyChannel]
  rfl

/-- The head is delivered and the notice of the first deferred entry moves into the queue. -/
def State.movedIn (s : State) (ch : Channel) (r : EventRecord) (rest : List EventRecord) (i : EntryIx)
    (items : List DeferralItem) (n : LeaseNotice) : State :=
  (s.modifyChannel ch ({ · with queue := rest ++ [.lease n], deferral := items, readCopy := .event r })).modifyTenancy i
    ({ · with deferred := none })

theorem State.readEvent_notice {s : State} {ch : Channel} {r : EventRecord} {rest : List EventRecord} {i : EntryIx}
    {items : List DeferralItem} {t : Tenancy} {n : LeaseNotice} (h : (s.channel ch).queue = r :: rest)
    (entry : (s.channel ch).deferral = .entry i :: items) (ht : s.tenancy i = some t) (hn : t.deferred = some n) :
    s.readEvent ch = if t.state = .closing then (s.movedIn ch r rest i items n).endAndExamine i t.tag
      else s.movedIn ch r rest i items n := by
  have there : (s.modifyChannel ch ({ · with queue := rest, readCopy := .event r })).tenancy i = some t := ht
  rw [State.readEvent_cons h, entry]
  simp only [State.moveIn, there, Option.bind_some, hn, State.modifyChannel_modifyChannel]
  rfl

/-- Settles O40: by the head of the deferral list; the bytes record kind by record kind. -/
theorem readEventDeliversTheHead : Obligations.ReadEventDeliversTheHead := by
  refine ⟨fun s ch high => ?_, by decide, by decide, fun n kind b12 b13 b14 granted contended expiring denied expired => ?_,
    fun t head hh => ?_⟩
  · rw [exec_readEvent high]
    refine ⟨fun h => by rw [State.readEvent_empty h], fun r rest h => ⟨fun none_ => by rw [State.readEvent_alone h none_],
      fun set items marker => by rw [State.readEvent_summary h marker], fun i items t n d entry ht hn hd => ?_⟩⟩
    obtain rfl : d = s.movedIn ch r rest i items n := hd
    rw [State.readEvent_notice h entry ht hn]
    refine ⟨fun open_ => by rw [if_neg open_], fun closing => ?_⟩
    have emptied : (s.movedIn ch r rest i items n).tenancy i = some { t with deferred := none } := by
      simp [State.movedIn, ht]
    rw [if_pos closing, State.endAndExamine, State.endTenancy_freed emptied rfl]
  · have bytes {b13 b14 : Byte} (tail : n.kind.tailBytes = [b13, b14]) := EventRecord.lease_bytes n tail
    rw [Marks.code_eq] at bytes
    cases hk : n.kind with
    | granted m =>
      obtain ⟨rfl, rfl, rfl, rfl⟩ := granted m hk
      rw [bytes (b13 := 0) (b14 := 0) (by rw [hk]; rfl), hk]
      rfl
    | contended x =>
      obtain ⟨rfl, rfl, rfl, rfl⟩ := contended x hk
      rw [bytes (b13 := 0) (b14 := 0) (by rw [hk]; rfl), hk, LeaseKind.byte12, byte_toNat]
      rfl
    | expiring ms =>
      obtain ⟨rfl, rfl, rfl, rfl⟩ := expiring ms hk
      rw [bytes (b13 := 0) (b14 := 0) (by rw [hk]; rfl), hk]
      rfl
    | denied cause objector attempts =>
      obtain ⟨rfl, rfl, rfl, absent, present⟩ := denied cause objector attempts hk
      have named : b13 = optionalStation objector := by
        cases objector with
        | none => exact absent rfl
        | some x => rw [present x rfl, optionalStation_some]
      rw [named, bytes (b13 := optionalStation objector) (b14 := BitVec.ofNat 8 attempts) (by rw [hk]; rfl), hk]
      rfl
    | expired =>
      obtain ⟨rfl, rfl, rfl, rfl⟩ := expired hk
      rw [bytes (b13 := 0) (b14 := 0) (by rw [hk]; rfl), hk]
      rfl
  · have heads (kind cls : Byte) : head kind cls = [kind, cls] ++ four t.toNat := by rw [hh, four_toNat]; rfl
    simp only [heads]
    refine ⟨rfl, rfl, fun _ _ => rfl, fun cause x n => ?_, fun _ => rfl, fun _ _ => rfl, fun count score warning x => ?_⟩
    · rw [← optionalStation_some]; rfl
    · rw [← Suppressed.code_eq]; rfl

end Sys2Proof.Machine

namespace Sys2Proof.Machine

open Host.Outcome

/-! ### The station's position on a tag (R14) -/

theorem State.position_holdingExclusive {s : State} {tag : Tag} (h : s.HeldExclusiveOn tag) :
    s.position tag = .holdingExclusive := by
  simp only [State.position, (s.heldExclusiveOn_iff tag).2 h, if_true]

theorem State.position_holdingShared {s : State} {tag : Tag} (held : s.HeldOn tag) (exclusive : ¬ s.HeldExclusiveOn tag) :
    s.position tag = .holdingShared := by
  rw [← State.heldExclusiveOn_iff] at exclusive
  simp only [State.position, exclusive, (s.heldOn_iff tag).2 held, if_true, Bool.false_eq_true, if_false]

theorem Tenancy.isPending_iff {t : Tenancy} : t.isPending = true ↔ t.attached = true ∧ ∃ phase lost, t.state = .claiming phase lost := by
  cases h : t.state <;> simp [Tenancy.isPending, h, EntryState.name]

/-- Where no entry is HELD, the position is that of the one attached CLAIMING entry. -/
theorem State.position_pending {s : State} {tag : Tag} {i : EntryIx} {t : Tenancy} (held : ¬ s.HeldOn tag)
    (h : s.tenancy i = some t) (on : t.tag = tag) (pending : t.isPending = true)
    (alone : ∀ j u, j ≠ i → s.tenancy j = some u → u.tag = tag → u.isPending = false) :
    s.position tag = .pending i t.mode t.standing := by
  have exclusive : ¬ s.HeldExclusiveOn tag := fun e => held e.heldOn
  rw [← State.heldExclusiveOn_iff] at exclusive
  rw [← State.heldOn_iff] at held
  simp only [State.position, exclusive, held, Bool.false_eq_true, if_false, State.find_onTag_only h on pending alone, h]

theorem State.position_none {s : State} {tag : Tag} (held : ¬ s.HeldOn tag)
    (none_ : ∀ i t, s.tenancy i = some t → t.tag = tag → t.isPending = false) : s.position tag = .none := by
  have exclusive : ¬ s.HeldExclusiveOn tag := fun e => held e.heldOn
  rw [← State.heldExclusiveOn_iff] at exclusive
  rw [← State.heldOn_iff] at held
  simp only [State.position, exclusive, held, Bool.false_eq_true, if_false, State.find_onTag_none none_]

theorem Tenancy.standing_claiming {t : Tenancy} {phase : FramePhase} {lost : Bool} (h : t.state = .claiming phase lost) :
    t.standing = min 15 (t.priority + (if phase = .queued then t.attempts + 1 else t.attempts) - 1) := by
  cases phase <;> simp [Tenancy.standing, h, standingOf, FramePhase.attemptNumber]

/-! ### A passing CLAIM (R28 to R33) -/

/-- A passing CLAIM goes on with the marks that the Lease Table gives it. -/
theorem State.passFrame_claim {s u : State} {f : Frame} {tag : Tag} {m : Mode} {standing : BitVec 4} {held yield : Bool}
    {objector : Option StationNo} {k : ClaimMarks} (body : f.body = .claim tag m standing held yield objector)
    (passes : s.claimPasses tag m standing.toNat f.source { held := held, yield := yield, objector := objector } = (u, k))
    (ws : List Word) : s.passFrame f ws = u.intoTransit (forwardWords ws (claimChange k.held k.yield k.objector)) := by
  simp only [State.passFrame, body, passes]

theorem Mode.conflicts_iff {m m' : Mode} : m.conflicts m' = true ↔ m = .exclusive ∨ m' = .exclusive := by
  cases m <;> cases m' <;> simp [Mode.conflicts]

/-- A comparison of two claims has one of three ends (R25). -/
theorem better_cases (own standing : Nat) (here claimant : StationNo) :
    (standing < own ∨ (standing = own ∧ here.toNat < claimant.toNat) → better own here standing claimant = true) ∧
      (own < standing ∨ (standing = own ∧ claimant.toNat < here.toNat) →
        better own here standing claimant = false ∧ better standing claimant own here = true) ∧
      (standing = own → claimant = here → better own here standing claimant = false ∧ better standing claimant own here = false) := by
  refine ⟨fun h => ?_, fun h => ?_, fun h e => ?_⟩
  · simp only [better, Bool.or_eq_true, Bool.and_eq_true, decide_eq_true_eq, beq_iff_eq]
    omega
  · constructor
    · simp only [better, Bool.or_eq_false_iff, Bool.and_eq_false_iff, decide_eq_false_iff_not, beq_eq_false_iff_ne]
      omega
    · simp only [better, Bool.or_eq_true, Bool.and_eq_true, decide_eq_true_eq, beq_iff_eq]
      omega
  · subst h e
    simp [better]

theorem State.contest_wins {s : State} {own standing : Nat} {claimant : StationNo}
    (h : better own s.config.settings.stationNumber standing claimant = true) {i : EntryIx} (k : ClaimMarks) :
    s.contest i own standing claimant k =
      (s, ClaimMarks.objectBy { k with yield := true } s.config.settings.stationNumber) := by
  simp only [State.contest, h, if_true]

theorem State.contest_loses {s : State} {own standing : Nat} {claimant : StationNo}
    (first : better own s.config.settings.stationNumber standing claimant = false)
    (second : better standing claimant own s.config.settings.stationNumber = true) {i : EntryIx} (k : ClaimMarks) :
    s.contest i own standing claimant k = (s.modifyTenancy i Tenancy.setLost, k) := by
  simp only [State.contest, first, second, if_true, Bool.false_eq_true, if_false]

theorem State.contest_ties {s : State} {own standing : Nat} {claimant : StationNo}
    (first : better own s.config.settings.stationNumber standing claimant = false)
    (second : better standing claimant own s.config.settings.stationNumber = false) {i : EntryIx} (k : ClaimMarks) :
    s.contest i own standing claimant k = (s.modifyTenancy i Tenancy.setLost,
      ClaimMarks.objectBy { k with yield := true } s.config.settings.stationNumber) := by
  simp only [State.contest, first, second, Bool.false_eq_true, if_false]

theorem State.modifyTenancy_setLost {s : State} {i : EntryIx} {t : Tenancy} {phase : FramePhase} {lost : Bool}
    (h : s.tenancy i = some t) (hs : t.state = .claiming phase lost) :
    s.modifyTenancy i Tenancy.setLost = s.modifyTenancy i ({ · with state := .claiming phase true }) := by
  rw [State.modifyTenancy_of_some h, State.modifyTenancy_of_some h, Tenancy.setLost, hs]

/-- Settles O51: by the station's position on the tag, and there by the comparison of the two claims. -/
theorem passingClaimIsJudged : Obligations.PassingClaimIsJudged := by
  rintro s f ws tag m standing held yield objector _ body rfl
  refine ⟨fun conflict => ?_, fun holding exclusive shared => ?_, fun free idle => ?_, ?_⟩
  · have objects : s.claimPasses tag m standing.toNat f.source { held := held, yield := yield, objector := objector } =
        s.objectAsHolder tag f.source { held := held, yield := yield, objector := objector } := by
      by_cases exclusive : s.HeldExclusiveOn tag
      · simp only [State.claimPasses, State.position_holdingExclusive exclusive]
      · obtain ⟨holding, rfl⟩ := conflict.resolve_left exclusive
        simp only [State.claimPasses, State.position_holdingShared holding exclusive, if_true]
    exact State.passFrame_claim body objects ws
  · have passes : s.claimPasses tag m standing.toNat f.source { held := held, yield := yield, objector := objector } =
        (s, { held := held, yield := yield, objector := objector }) := by
      simp [State.claimPasses, State.position_holdingShared holding exclusive, shared]
    exact State.passFrame_claim body passes ws
  · have none_ : s.position tag = .none := State.position_none free fun i t h on => by
      rw [← Bool.not_eq_true, Tenancy.isPending_iff]
      rintro ⟨attached, phase, lost, hs⟩
      exact idle i t phase lost h on attached hs
    have passes : s.claimPasses tag m standing.toNat f.source { held := held, yield := yield, objector := objector } =
        (s, { held := held, yield := yield, objector := objector }) := by simp only [State.claimPasses, none_]
    exact State.passFrame_claim body passes ws
  · rintro i t phase lost own free h on attached hs alone rfl
    have position : s.position tag = .pending i t.mode t.standing :=
      State.position_pending free h on (Tenancy.isPending_iff.2 ⟨attached, phase, lost, hs⟩) fun j u ne hu tagged => by
        rw [← Bool.not_eq_true, Tenancy.isPending_iff]
        rintro ⟨attached', ph, l, hs'⟩
        exact alone j u ph l ne hu tagged attached' hs'
    rw [← Tenancy.standing_claiming hs, ← State.modifyTenancy_setLost h hs]
    have contested (conflict : m = .exclusive ∨ t.mode = .exclusive) :
        s.claimPasses tag m standing.toNat f.source { held := held, yield := yield, objector := objector } =
          s.contest i t.standing standing.toNat f.source { held := held, yield := yield, objector := objector } := by
      simp only [State.claimPasses, position, Mode.conflicts_iff.2 conflict, if_true]
    obtain ⟨wins, loses, ties⟩ := better_cases t.standing standing.toNat s.config.settings.stationNumber f.source
    refine ⟨fun shared shared' => ?_, fun conflict => ⟨fun worse => ?_, fun better_ => ?_, fun same number => ?_⟩⟩
    · have passes : s.claimPasses tag m standing.toNat f.source { held := held, yield := yield, objector := objector } =
          (s, { held := held, yield := yield, objector := objector }) := by
        simp [State.claimPasses, position, shared, shared', Mode.conflicts]
      exact State.passFrame_claim body passes ws
    · exact State.passFrame_claim body ((contested conflict).trans (State.contest_wins (wins worse) _)) ws
    · obtain ⟨first, second⟩ := loses better_
      exact State.passFrame_claim body ((contested conflict).trans (State.contest_loses first second _)) ws
    · obtain ⟨first, second⟩ := ties same number
      exact State.passFrame_claim body ((contested conflict).trans (State.contest_ties first second _)) ws

end Sys2Proof.Machine

namespace Sys2Proof.Machine

open Host.Outcome

/-! ### A fold over the entries, entry by entry -/

/-- The state of a fold over the entries when the entries below `n` have been treated. -/
def State.treated (f : State → EntryIx → State) (s : State) (n : Nat) : State := (allIx.take n).foldl f s

theorem State.treated_succ (f : State → EntryIx → State) (s : State) (i : EntryIx) :
    s.treated f (i.val + 1) = f (s.treated f i.val) i := by
  have below : i.val < allIx.length := by simp [allIx]
  have last : allIx[i.val] = i := by simp [allIx]
  simp only [State.treated, List.take_succ_eq_append_getElem below, last, List.foldl_append, List.foldl_cons, List.foldl_nil]

theorem State.treated_all (f : State → EntryIx → State) (s : State) : s.treated f 64 = allIx.foldl f s := by
  rw [State.treated, List.take_of_length_le (by simp [allIx])]

theorem foldl_of_fixed_mem {α β : Type} {f : α → β → α} {s : α} {l : List β} (h : ∀ b ∈ l, f s b = s) : l.foldl f s = s := by
  induction l with
  | nil => rfl
  | cons b l ih => rw [List.foldl_cons, h b List.mem_cons_self, ih fun c hc => h c (List.mem_cons_of_mem _ hc)]

/-! ### A change of the station state at one entry (R47, R66) -/

/-- A change leaves an entry that takes no part in the ring alone; any other entry ends, denied or without a notice. -/
theorem State.changeEntry_cases (cause : DenyCause) (s : State) (i : EntryIx) :
    (State.changeEntry cause s i = s ∧ ∀ u, s.tenancy i = some u → u.blocks = false) ∨
      ∃ u r, s.tenancy i = some u ∧ u.blocks = true ∧ (r = s ∨ r = s.raiseLease i (.denied cause none u.attempts) {}) ∧
        State.changeEntry cause s i = r.endTenancy i := by
  obtain ⟨free, entry⟩ := s.changeEntry_changed cause i
  cases h : s.tenancy i with
  | none => exact .inl ⟨free h, by simp⟩
  | some u =>
    have changed := entry u h
    have stays (same : State.changeEntry cause s i = s) (idle : u.blocks = false) :
        State.changeEntry cause s i = s ∧ ∀ w, some u = some w → w.blocks = false :=
      ⟨same, fun w hw => Option.some.inj hw ▸ idle⟩
    cases hs : u.state with
    | claiming phase lost =>
      rw [hs] at changed
      refine .inr ⟨u, ?_⟩
      cases attached : u.attached with
      | true => exact ⟨_, rfl, by simp [Tenancy.blocks, hs], .inr rfl, changed.1 attached⟩
      | false => exact ⟨_, rfl, by simp [Tenancy.blocks, hs], .inl rfl, changed.2 attached⟩
    | backoff timer =>
      rw [hs] at changed
      exact .inr ⟨u, _, rfl, by simp [Tenancy.blocks, hs], .inr rfl, changed⟩
    | releasing phase =>
      rw [hs] at changed
      exact .inr ⟨u, _, rfl, by simp [Tenancy.blocks, hs], .inl rfl, changed⟩
    | queuedLocal =>
      rw [hs] at changed
      exact .inl (stays changed (by simp [Tenancy.blocks, hs]))
    | held remaining demand =>
      rw [hs] at changed
      exact .inl (stays changed (by simp [Tenancy.blocks, hs]))
    | closing =>
      rw [hs] at changed
      exact .inl (stays changed (by simp [Tenancy.blocks, hs]))

theorem State.raiseLease_other {s : State} {i j : EntryIx} (ne : j ≠ i) (kind : LeaseKind) (marks : Marks) :
    (s.raiseLease i kind marks).tenancy j = s.tenancy j := by
  obtain ⟨d, raised, -⟩ := s.raiseLease_tenancy i j kind marks
  rw [raised]
  simp [ne]

/-- What a change does at some of the entries: the others stay, the treated ones take no part in the ring any more, and the
send list loses the items of those that did. -/
structure State.Changes (treats : EntryIx → Prop) (s t : State) : Prop where
  work : s.LeaseWork t
  waiting : ∀ i ∈ t.lease.waiting, i ∈ s.lease.waiting
  idle : ∀ i u, s.tenancy i = some u → u.blocks = false → t.tenancy i = some u
  others : ∀ i, ¬ treats i → t.tenancy i = s.tenancy i
  fresh : ∀ i u, t.tenancy i = some u → s.tenancy i = some u ∨ u.state = .closing
  ended : ∀ i u, treats i → t.tenancy i = some u → u.blocks = false
  sends : ∀ x ∈ t.frames.sendList, x ∈ s.frames.sendList
  dropped : ∀ i u, treats i → s.tenancy i = some u → u.blocks = true →
    SendItem.claim i ∉ t.frames.sendList ∧ SendItem.release i ∉ t.frames.sendList

theorem State.Changes.refl (s : State) : s.Changes (fun _ => False) s :=
  ⟨.refl s, fun _ => id, fun _ _ h _ => h, fun _ _ => rfl, fun _ _ => .inl, fun _ _ f => f.elim, fun _ => id,
    fun _ _ f => f.elim⟩

theorem State.Changes.trans {p q : EntryIx → Prop} {s t u : State} (h : s.Changes p t) (k : t.Changes q u) :
    s.Changes (fun i => p i ∨ q i) u where
  work := h.work.trans k.work
  waiting := fun i w => h.waiting i (k.waiting i w)
  idle := fun i v hv b => k.idle i v (h.idle i v hv b) b
  others := fun i n => (k.others i fun x => n (.inr x)).trans (h.others i fun x => n (.inl x))
  fresh := fun i v hv => (k.fresh i v hv).elim (h.fresh i v) .inr
  ended := fun i v pq hv => by
    by_cases qi : q i
    · exact k.ended i v qi hv
    · rw [k.others i qi] at hv
      exact h.ended i v (pq.resolve_right qi) hv
  sends := fun x m => h.sends x (k.sends x m)
  dropped := fun i v pq hv b => by
    by_cases pi : p i
    · obtain ⟨claim, release⟩ := h.dropped i v pi hv b
      exact ⟨fun m => claim (k.sends _ m), fun m => release (k.sends _ m)⟩
    · exact k.dropped i v (pq.resolve_left pi) ((h.others i pi).trans hv) b

theorem State.changeEntry_changes (cause : DenyCause) (s : State) (i : EntryIx) :
    s.Changes (· = i) (State.changeEntry cause s i) := by
  rcases s.changeEntry_cases cause i with ⟨same, idle⟩ | ⟨u, r, h, blocks, hr, ends⟩
  · rw [same]
    exact ⟨.refl s, fun _ => id, fun _ _ h _ => h, fun _ _ => rfl, fun _ _ => .inl, fun j v e hv => idle v (e ▸ hv), fun _ => id,
      fun j v e hv b => by rw [idle v (e ▸ hv)] at b; cases b⟩
  · have work : s.LeaseWork (r.endTenancy i) := ends ▸ s.changeEntry_work cause i
    have other (j : EntryIx) (ne : j ≠ i) : r.tenancy j = s.tenancy j := by
      rcases hr with rfl | rfl
      · rfl
      · exact State.raiseLease_other ne _ _
    have waiting : r.lease.waiting = s.lease.waiting := by rcases hr with rfl | rfl <;> simp
    have frames : r.frames = s.frames := by rcases hr with rfl | rfl <;> simp
    have closed (v : Tenancy) (hv : (r.endTenancy i).tenancy i = some v) : v.state = .closing := by
      rw [State.endTenancy_tenancy, if_pos rfl, Option.bind_eq_some_iff] at hv
      obtain ⟨w, -, hw⟩ := hv
      split at hw
      · cases hw
      · obtain rfl := Option.some.inj hw; rfl
    have others (j : EntryIx) (ne : j ≠ i) : (r.endTenancy i).tenancy j = s.tenancy j := by
      rw [State.endTenancy_tenancy, if_neg ne, other j ne]
    rw [ends]
    refine ⟨work, fun j w => ?_, fun j v hv idle => ?_, others, fun j v hv => ?_, fun j v e hv => ?_, fun x m => ?_,
      fun j v e _ _ => ?_⟩
    · rw [State.endTenancy_waiting, waiting] at w; exact (List.mem_filter.1 w).1
    · refine (others j fun e => ?_).trans hv
      rw [e, h] at hv
      obtain rfl := Option.some.inj hv
      rw [blocks] at idle; cases idle
    · by_cases e : j = i
      · subst e; exact .inr (closed v hv)
      · exact .inl ((others j e).symm.trans hv)
    · subst e
      simp [Tenancy.blocks, closed v hv]
    · rw [State.endTenancy_sendList, frames] at m; exact (List.mem_filter.1 m).1
    · subst e
      simp [SendItem.isOf]

theorem State.changeEntries_changes (cause : DenyCause) (l : List EntryIx) (s : State) :
    s.Changes (· ∈ l) (l.foldl (State.changeEntry cause) s) := by
  induction l generalizing s with
  | nil => simpa using State.Changes.refl s
  | cons i l ih => simpa only [List.mem_cons, List.foldl_cons] using (s.changeEntry_changes cause i).trans (ih _)

/-- Entries that take no part in the ring are passed over. -/
theorem State.changeEntries_idle (cause : DenyCause) {l : List EntryIx} {s : State}
    (h : ∀ i ∈ l, ∀ u, s.tenancy i = some u → u.blocks = false) : l.foldl (State.changeEntry cause) s = s :=
  foldl_of_fixed_mem fun i hi => by
    rcases s.changeEntry_cases cause i with ⟨same, -⟩ | ⟨u, r, hu, blocks, -⟩
    · exact same
    · rw [h i hi u hu] at blocks; cases blocks

/-- Where one entry alone takes part in the ring, the change is a change of that entry. -/
theorem State.changeEntries_only (cause : DenyCause) {s : State} {i : EntryIx}
    (alone : ∀ j v, j ≠ i → s.tenancy j = some v → v.blocks = false) :
    allIx.foldl (State.changeEntry cause) s = State.changeEntry cause s i := by
  obtain ⟨before, behind, split_, first⟩ : ∃ before behind, allIx = before ++ i :: behind ∧ i ∉ before :=
    List.eq_append_cons_of_mem (List.mem_finRange i)
  have changed := s.changeEntry_changes cause i
  rw [split_, List.foldl_append, List.foldl_cons, State.changeEntries_idle cause (l := before) fun j hj v hv =>
    alone j v (fun e => first (e ▸ hj)) hv]
  refine State.changeEntries_idle cause fun j _ v hv => ?_
  by_cases e : j = i
  · exact changed.ended j v e hv
  · exact alone j v e ((changed.others j e).symm.trans hv)

/-! ### The taking of a change (R21, R47, R49, R66) -/

theorem Tenancy.endsOnChange_eq (t : Tenancy) : t.endsOnChange = t.blocks := by
  cases h : t.state <;> simp [Tenancy.endsOnChange, Tenancy.blocks, h]

theorem State.examineTags_nil (s : State) (tags : List Tag) : s.examineTags tags [] = tags.foldl (fun u g => u.examine g) s := by
  simp [State.examineTags, State.examineAfter]

/-- What is left to take once a change has been taken: a return to UP is taken with it (R49). -/
theorem State.absorbUp_eq (s : State) : (s.lease.changes.head? ≠ some .up → s.absorbUp = s) ∧
    ∀ later, s.lease.changes = .up :: later → s.absorbUp = (s.setTaken .up).setChanges later := by
  refine ⟨fun h => ?_, fun later h => by simp only [State.absorbUp, h]⟩
  unfold State.absorbUp
  split
  · next e => rw [e] at h; exact absurd rfl h
  · rfl

theorem State.takeChange_of {s : State} {x : StationState} {rest : List StationState} (h : s.lease.changes = x :: rest)
    (up : x ≠ .up) : s.takeChange = ((s.setChanges rest).applyChange x).absorbUp := by
  cases x with
  | up => exact absurd rfl up
  | _ => simp only [State.takeChange, h]

/-- A change to another state than UP leaves no entry in the ring. -/
theorem State.Changes.taken {b w t : State} {x : StationState} (changed : b.Changes (fun _ => True) w) (treats : w.TreatsWaiters t)
    (state : b.lease.taken = x) (up : x ≠ .up) :
    (∀ tag, ¬ t.Blocked tag) ∧
      (∀ i u, b.tenancy i = some u → u.isHeld = true ∨ u.state = .closing → t.tenancy i = some u) ∧
      (b.SendListExact → ∀ item ∈ t.frames.sendList, item = .census) := by
  have down : w.lease.taken ≠ .up := by rw [changed.work.taken, state]; exact up
  refine ⟨fun tag ⟨i, v, hv, _, blocks⟩ => ?_, fun i u hu stays => ?_, fun exact_ item m => ?_⟩
  · have before : w.tenancy i = some v := by
      cases hs : v.state with
      | claiming phase lost => exact (treats.claims i v phase lost hv hs).resolve_right down
      | backoff timer => exact treats.backoffs i v timer hv hs
      | releasing phase => exact treats.releases i v phase hv hs
      | _ => simp [Tenancy.blocks, hs] at blocks
    rw [changed.ended i v trivial before] at blocks; cases blocks
  · have idle : u.blocks = false ∧ u.isQueued = false := by
      cases hs : u.state <;> simp [Tenancy.blocks, Tenancy.isHeld, Tenancy.isQueued, EntryState.name, hs] at stays ⊢
    exact treats.others i u (changed.idle i u hu idle.1) idle.2
  · have left : item ∈ w.frames.sendList := (treats.sends item m).resolve_right down
    have sent := changed.sends item left
    cases item with
    | claim i =>
      obtain ⟨u, lost, hu, hs⟩ := (exact_.2.1 i).1 sent
      exact absurd left (changed.dropped i u trivial hu (by simp [Tenancy.blocks, hs])).1
    | release i =>
      obtain ⟨u, hu, hs⟩ := (exact_.2.2.1 i).1 sent
      exact absurd left (changed.dropped i u trivial hu (by simp [Tenancy.blocks, hs])).2
    | census => rfl

/-- An entry denied as the only one in the ring, without waiters on its tag: nothing is examined. -/
theorem State.applyChange_alone {s : State} {x : StationState} {i : EntryIx} {u : Tenancy} (h : s.tenancy i = some u)
    (releasing : ∀ phase, u.state ≠ .releasing phase) (attached : u.attached = true) (blocks : u.blocks = true)
    (alone : ∀ j v, j ≠ i → s.tenancy j = some v → v.blocks = false) (list : s.waitList u.tag = []) :
    s.applyChange x = ((s.setTaken x).raiseLease i (.denied (denialCause x) none u.attempts) {}).endTenancy i := by
  have changed := (s.setTaken x).changeEntry_changes (denialCause x) i
  have entry := ((s.setTaken x).changeEntry_changed (denialCause x) i).2 u h
  have denied : State.changeEntry (denialCause x) (s.setTaken x) i =
      ((s.setTaken x).raiseLease i (.denied (denialCause x) none u.attempts) {}).endTenancy i := by
    cases hs : u.state with
    | claiming phase lost => rw [hs] at entry; exact entry.1 attached
    | backoff timer => rw [hs] at entry; exact entry
    | releasing phase => exact absurd hs (releasing phase)
    | _ => simp [Tenancy.blocks, hs] at blocks
  have still (g : Tag) (hg : g ∈ s.tagsOf Tenancy.endsOnChange) :
      (State.changeEntry (denialCause x) (s.setTaken x) i).examine g = State.changeEntry (denialCause x) (s.setTaken x) i := by
    obtain ⟨j, v, hv, rfl, ends⟩ := State.mem_tagsOf.1 hg
    have here : j = i := by
      by_contra ne
      rw [Tenancy.endsOnChange_eq, alone j v ne hv] at ends; cases ends
    rw [here, h] at hv
    obtain rfl := Option.some.inj hv
    refine State.examine_nil (List.eq_nil_iff_forall_not_mem.2 fun k hk => ?_)
    obtain ⟨waits, w, hw, on, queued⟩ := State.mem_waitList.1 hk
    have before : s.tenancy k = some w := (changed.fresh k w hw).resolve_right fun closing => by
      simp [Tenancy.isQueued, closing, EntryState.name] at queued
    have listed : k ∈ s.waitList u.tag := State.mem_waitList.2 ⟨changed.waiting k waits, w, before, on, queued⟩
    rw [list] at listed; cases listed
  unfold State.applyChange
  dsimp only
  rw [State.changeEntries_only (denialCause x) (s := s.setTaken x) alone, State.examineTags_nil, foldl_of_fixed_mem still, denied]

/-- Settles O60: entry by entry, then tag by tag, with what was told right after. -/
theorem leaseTableTakesStationChanges : Obligations.LeaseTableTakesStationChanges := fun s rest => by
  have taken : exec .leaseTableTakesStateChange s = next s.takeChange := rfl
  refine ⟨fun x cause told hx => ?_, fun told => ?_, fun told => ?_⟩
  · have up : x ≠ .up := by rcases hx with ⟨rfl, -⟩ | ⟨rfl, -⟩ <;> simp
    obtain rfl : cause = denialCause x := by rcases hx with ⟨rfl, rfl⟩ | ⟨rfl, rfl⟩ <;> rfl
    have step_ := State.takeChange_of told up
    refine ⟨?_, fun later i u h blocks releasing attached alone list => ?_⟩
    · have work := (s.setChanges rest).applyChange_work x
      obtain ⟨stays, absorbs⟩ := ((s.setChanges rest).applyChange x).absorbUp_eq
      rw [show ((s.setChanges rest).applyChange x).lease.changes = rest from work.changes] at stays absorbs
      have fold := ((s.setChanges rest).setTaken x).treated_all (State.changeEntry (denialCause x))
      have changed : ((s.setChanges rest).setTaken x).Changes (fun _ => True)
          (((s.setChanges rest).setTaken x).treated (State.changeEntry (denialCause x)) 64) := by
        rw [fold]
        simpa [allIx] using State.changeEntries_changes (denialCause x) allIx ((s.setChanges rest).setTaken x)
      have applied : (s.setChanges rest).applyChange x = (s.tagsOf Tenancy.endsOnChange).foldl (fun y g => y.examine g)
          (((s.setChanges rest).setTaken x).treated (State.changeEntry (denialCause x)) 64) := by
        rw [fold, ← State.examineTags_nil]; rfl
      have treats : (((s.setChanges rest).setTaken x).treated (State.changeEntry (denialCause x)) 64).TreatsWaiters
          ((s.setChanges rest).applyChange x) := by
        rw [applied, ← State.examineTags_nil]; exact State.examineTags_treats _ _ _
      obtain ⟨clear, kept, census⟩ := changed.taken treats rfl up
      refine ⟨(s.setChanges rest).applyChange x, ((s.setChanges rest).setTaken x).treated (State.changeEntry (denialCause x)),
        s.tagsOf Tenancy.endsOnChange, rfl, fun i => ?_, s.tagsOf_ascending _, fun g => ?_, applied, fun later => ?_,
        fun later h => ?_, work.taken, work.changes, clear, kept, work.station, work.config, work.line, census⟩
      · rw [State.treated_succ]; exact State.changeEntry_changed _ _ _
      · simp only [State.mem_tagsOf, Tenancy.endsOnChange_eq]
      · rw [taken, step_, stays later]
      · rw [taken, step_, absorbs later h]
    · have applied := State.applyChange_alone (s := s.setChanges rest) (x := x) h releasing attached blocks alone list
      have stays := ((s.setChanges rest).applyChange x).absorbUp_eq.1
      rw [show ((s.setChanges rest).applyChange x).lease.changes = rest from ((s.setChanges rest).applyChange_work x).changes]
        at stays
      rw [taken, step_, stays later, applied]
  · rw [taken]
    simp only [State.takeChange, State.absorbUp, told]
  · rw [taken]
    simp only [State.takeChange, told]

end Sys2Proof.Machine

namespace Sys2Proof.Machine

open Host.Outcome

/-! ### One period of the clock (R52, R91, R93, R97, R98, R100, R105) -/

/-- The transmitter once its next word time has passed (R91, R98). -/
def State.wordTransmitter (s : State) : Transmitter :=
  if s.rstnLow then s.line.transmitter
  else
    match s.line.transmitter with
    | .sending ws sent => .sending ws (if sent ≤ ws.length then sent + 1 else sent)
    | .ended => .idle 1
    | .idle owed => .idle (owed - 1)

/-- The events of the transmitter's next word time (R97). -/
def State.wordEvents (s : State) : List Instr :=
  if s.rstnLow then []
  else
    match s.line.transmitter with
    | .sending ws sent => if sent ≤ ws.length then [] else [if s.line.mode = .draining then .drainingEndSent else .frameEndSent]
    | .ended | .idle (_ + 1) => []
    | .idle 0 => if s.line.mode = .inserted then [.frameBoundary] else []

theorem State.wordTime_eq (s : State) : s.wordTime =
    { s with line := { s.line with transmitter := s.wordTransmitter }, pending := s.pending ++ s.wordEvents } := by
  cases low : s.rstnLow with
  | true =>
    simp [State.wordTime, State.wordTransmitter, State.wordEvents, low]
    rw [← low]
  | false =>
    cases sends : s.line.transmitter with
    | sending ws sent =>
      by_cases more : sent ≤ ws.length
      · simp [State.wordTime, State.wordTransmitter, State.wordEvents, low, sends, more, State.modifyLine]
      · simp [State.wordTime, State.wordTransmitter, State.wordEvents, low, sends, more]
        rw [← sends]
    | ended => simp [State.wordTime, State.wordTransmitter, State.wordEvents, low, sends, State.modifyLine]
    | idle owed =>
      cases owed with
      | zero =>
        by_cases inserted : s.line.mode = .inserted
        · simp [State.wordTime, State.wordTransmitter, State.wordEvents, low, sends, inserted]
          rw [← sends, ← inserted]
        · simp [State.wordTime, State.wordTransmitter, State.wordEvents, low, sends, inserted]
          rw [← sends, ← low]
      | succ owed => simp [State.wordTime, State.wordTransmitter, State.wordEvents, low, sends, State.modifyLine]

/-- The events of the transmitter in this period. -/
def State.periodEvents (s : State) : List Instr := if (s.time.phase + 1) % 10 = 0 then s.wordEvents else []

/-- The Line Interface once the transmitter's part of this period has passed. -/
def State.periodLine (s : State) : LineInterface :=
  { s.line with transmitter := if (s.time.phase + 1) % 10 = 0 then s.wordTransmitter else s.line.transmitter }

theorem State.clockPeriod_eq (s : State) : s.clockPeriod =
    { s with
      time :=
        { phase := (s.time.phase + 1) % 25000
          micros := if (s.time.phase + 1) % 25 = 0 then s.time.micros + 1 else s.time.micros }
      line := if (s.time.phase + 1) % 25 = 0 then s.periodLine.tick else s.periodLine
      lease := if (s.time.phase + 1) % 25000 = 0 then { s.lease with entries := s.lease.entries.map Entry.tick } else s.lease
      station := if (s.time.phase + 1) % 25000 = 0 then s.station.tick else s.station
      pending := s.pending ++ s.periodEvents ++
        if (s.time.phase + 1) % 25000 = 0 then .stationTimestampTick :: s.termTicks else [] } := by
  have word : (s.time.phase + 1) % 25000 % 10 = (s.time.phase + 1) % 10 := Nat.mod_mod_of_dvd _ (by decide)
  have micro : (s.time.phase + 1) % 25000 % 25 = (s.time.phase + 1) % 25 := Nat.mod_mod_of_dvd _ (by decide)
  unfold State.clockPeriod State.periodLine State.periodEvents
  simp only [Config.clocksPerMilli, Config.clocksPerWord, Config.clocksPerMicro, word, micro, State.wordTime_eq]
  by_cases atWord : (s.time.phase + 1) % 10 = 0 <;> by_cases atMicro : (s.time.phase + 1) % 25 = 0 <;>
    by_cases atMilli : (s.time.phase + 1) % 25000 = 0 <;>
    simp only [atWord, atMicro, atMilli, if_true, if_false, List.append_nil] <;> rfl

theorem State.clockPeriod_line (s : State) :
    s.clockPeriod.line = if (s.time.phase + 1) % 25 = 0 then s.periodLine.tick else s.periodLine := by rw [s.clockPeriod_eq]

theorem State.clockPeriod_lease (s : State) : s.clockPeriod.lease =
    if (s.time.phase + 1) % 25000 = 0 then { s.lease with entries := s.lease.entries.map Entry.tick } else s.lease := by
  rw [s.clockPeriod_eq]

theorem State.clockPeriod_station (s : State) :
    s.clockPeriod.station = if (s.time.phase + 1) % 25000 = 0 then s.station.tick else s.station := by rw [s.clockPeriod_eq]

theorem State.clockPeriod_pending (s : State) : s.clockPeriod.pending = s.pending ++ s.periodEvents ++
    if (s.time.phase + 1) % 25000 = 0 then .stationTimestampTick :: s.termTicks else [] := by rw [s.clockPeriod_eq]

theorem State.clockPeriod_time (s : State) : s.clockPeriod.time =
    { phase := (s.time.phase + 1) % 25000
      micros := if (s.time.phase + 1) % 25 = 0 then s.time.micros + 1 else s.time.micros } := by rw [s.clockPeriod_eq]

/-- The blocks that have no clock of their own. -/
theorem State.clockPeriod_same (s : State) : s.clockPeriod.frames = s.frames ∧ s.clockPeriod.channels = s.channels ∧
    s.clockPeriod.config = s.config ∧ s.clockPeriod.identity = s.identity ∧ s.clockPeriod.rstnLow = s.rstnLow ∧
    s.clockPeriod.ports = s.ports ∧ s.clockPeriod.choices = s.choices := by
  rw [s.clockPeriod_eq]
  exact ⟨rfl, rfl, rfl, rfl, rfl, rfl, rfl⟩

/-- Of the Lease Table only the entries have timers. -/
theorem State.clockPeriod_lists (s : State) : s.clockPeriod.lease.waiting = s.lease.waiting ∧
    s.clockPeriod.lease.taken = s.lease.taken ∧ s.clockPeriod.lease.changes = s.lease.changes := by
  rw [s.clockPeriod_lease]
  split <;> exact ⟨rfl, rfl, rfl⟩

/-- Of the Line Interface the receiver and the transit store have no timers. -/
theorem State.clockPeriod_stores (s : State) : s.clockPeriod.line.receiver = s.line.receiver ∧
    s.clockPeriod.line.transit = s.line.transit ∧ s.clockPeriod.line.transmitter = s.periodLine.transmitter := by
  rw [s.clockPeriod_line]
  split <;> exact ⟨rfl, rfl, rfl⟩

/-! ### Events that are due (R11, R54, R79, R93, R101, R108 to R113) -/

theorem mem_allIx (i : EntryIx) : i ∈ allIx := List.mem_finRange i

theorem allIx_ascending : allIx.Pairwise (· < ·) := List.pairwise_lt_finRange 64

/-- The expiry of the entry of lowest index is the first that a search finds. -/
theorem State.findExpiry_first {s : State} {i : EntryIx} {c : Instr} (expires : s.EntryExpires i c)
    (first : ∀ j d, j < i → ¬ s.EntryExpires j d) : allIx.findSome? (fun i => (s.tenancy i).bind (dueOfEntry i)) = some c := by
  obtain ⟨before, behind, split_⟩ := List.append_of_mem (mem_allIx i)
  have ascending := allIx_ascending
  rw [split_, List.pairwise_append] at ascending
  rw [List.findSome?_eq_some_iff]
  refine ⟨before, i, behind, split_, State.entryExpires_iff.1 expires, fun j hj => Option.eq_none_iff_forall_ne_some.2 fun d hd => ?_⟩
  exact first j d (ascending.2.2 j hj i List.mem_cons_self) (State.entryExpires_iff.2 hd)

theorem State.findExpiry_none {s : State} (none_ : ∀ i c, ¬ s.EntryExpires i c) :
    allIx.findSome? (fun i => (s.tenancy i).bind (dueOfEntry i)) = none :=
  List.findSome?_eq_none_iff.2 fun i _ => Option.eq_none_iff_forall_ne_some.2 fun c hc =>
    none_ i c (State.entryExpires_iff.2 hc)

/-- With nothing due at the Frame Processor and the Lease Table, the timers of station and line are looked at in their order. -/
theorem State.due_timers {s : State} (arrivals : s.frames.arrivals = []) (changes : s.lease.changes = [])
    (none_ : ∀ i c, ¬ s.EntryExpires i c) :
    (s.station.holdOff = some 0 → s.due = some .joinHoldOffExpiry) ∧
      (s.station.holdOff ≠ some 0 →
        (s.station.interval = some 0 → s.due = some .censusIntervalExpiry) ∧
        (s.station.interval ≠ some 0 →
          (∀ serial origin, s.station.census = .inFlight serial origin 0 → s.due = some .censusLoss) ∧
          ((∀ serial origin, s.station.census ≠ .inFlight serial origin 0) →
            (s.line.mode = .settling 0 → s.due = some .relaySettleExpiry) ∧
            (s.line.mode ≠ .settling 0 →
              (s.line.detector = .present 0 → s.due = some .upstreamSilent) ∧
              (s.line.detector ≠ .present 0 → s.due = none))))) := by
  have searched := State.findExpiry_none none_
  unfold State.due
  simp only [arrivals, changes, searched, List.isEmpty_nil, Bool.not_true, Bool.false_eq_true, if_false]
  refine ⟨fun holdOff => ?_, fun noHoldOff => ⟨fun interval => ?_, fun noInterval => ⟨fun serial origin census => ?_,
    fun noCensus => ⟨fun mode => ?_, fun noMode => ⟨fun detector => ?_, fun noDetector => ?_⟩⟩⟩⟩⟩
  all_goals split <;> simp_all

theorem EntryState.tick_same {x : EntryState} (claims : ∀ serial circuit lost, x ≠ .claiming (.inFlight serial circuit) lost)
    (releases : ∀ serial circuit, x ≠ .releasing (.inFlight serial circuit)) (backs : ∀ timer, x ≠ .backoff timer) :
    x.tick = x := by
  cases x with
  | claiming phase lost =>
    cases phase with
    | queued => rfl
    | inFlight serial circuit => exact absurd rfl (claims serial circuit lost)
  | releasing phase =>
    cases phase with
    | queued => rfl
    | inFlight serial circuit => exact absurd rfl (releases serial circuit)
  | backoff timer => exact absurd rfl (backs timer)
  | _ => rfl

/-! ### The idle block (log entry 4) -/

theorem step_idle {s : State} (empty : s.pending = []) : step s = next s.idle := by
  simp only [step, empty]

/-- What the transmitter does in this period. -/
theorem State.period_transmitter (s : State) :
    ((s.time.phase + 1) % 10 ≠ 0 ∨ s.rstnLow = true →
      s.periodEvents = [] ∧ s.periodLine.transmitter = s.line.transmitter) ∧
    ((s.time.phase + 1) % 10 = 0 → s.rstnLow = false →
      (∀ ws sent, s.line.transmitter = .sending ws sent →
        (sent ≤ ws.length → s.periodEvents = [] ∧ s.periodLine.transmitter = .sending ws (sent + 1)) ∧
        (ws.length < sent → s.periodLine.transmitter = s.line.transmitter ∧
          s.periodEvents = if s.line.mode = .draining then [.drainingEndSent] else [.frameEndSent])) ∧
      (s.line.transmitter = .ended → s.periodEvents = [] ∧ s.periodLine.transmitter = .idle 1) ∧
      (∀ owed, s.line.transmitter = .idle (owed + 1) → s.periodEvents = [] ∧ s.periodLine.transmitter = .idle owed) ∧
      (s.line.transmitter = .idle 0 → s.periodLine.transmitter = .idle 0 ∧
        s.periodEvents = if s.line.mode = .inserted then [.frameBoundary] else [])) := by
  refine ⟨fun still => ?_, fun word high => ⟨fun ws sent sends => ⟨fun more => ?_, fun last => ?_⟩, fun ended => ?_,
    fun owed idle => ?_, fun idle => ?_⟩⟩
  · rcases still with word | low
    · simp [State.periodEvents, State.periodLine, word]
    · simp [State.periodEvents, State.periodLine, State.wordEvents, State.wordTransmitter, low]
  · simp [State.periodEvents, State.periodLine, State.wordEvents, State.wordTransmitter, word, high, sends, more]
  · simp only [State.periodEvents, State.periodLine, State.wordEvents, State.wordTransmitter, word, high, sends,
      Nat.not_le.2 last, if_true, if_false, Bool.false_eq_true, true_and]
    split <;> rfl
  · simp [State.periodEvents, State.periodLine, State.wordEvents, State.wordTransmitter, word, high, ended]
  · simp [State.periodEvents, State.periodLine, State.wordEvents, State.wordTransmitter, word, high, idle]
  · simp [State.periodEvents, State.periodLine, State.wordEvents, State.wordTransmitter, word, high, idle]

/-- What the timers of the Line Interface do in a microsecond (R93, R100). -/
theorem LineInterface.tick_timers (l : LineInterface) :
    (∀ timer, l.mode = .settling timer → l.tick.mode = .settling (timer - 1)) ∧
      ((∀ timer, l.mode ≠ .settling timer) → l.tick.mode = l.mode) ∧
      (∀ timer, l.detector = .present timer → l.tick.detector = .present (timer - 1)) ∧
      (l.detector = .silent → l.tick.detector = .silent) := by
  refine ⟨fun timer h => ?_, fun h => ?_, fun timer h => ?_, fun h => ?_⟩
  · simp only [LineInterface.tick, h]
  · cases m : l.mode with
    | settling timer => exact absurd m (h timer)
    | _ => simp only [LineInterface.tick, m]
  · simp only [LineInterface.tick, h]
  · simp only [LineInterface.tick, h]

/-- The ticks of the terms of the HELD entries, in ascending order of index (R52). -/
theorem State.termTicks_eq (s : State) : ∃ held : List EntryIx, held.Pairwise (· < ·) ∧
    (∀ i, i ∈ held ↔ ∃ u, s.tenancy i = some u ∧ u.isHeld = true) ∧ s.termTicks = held.map .termTick :=
  ⟨allIx.filter (s.entryMeets Tenancy.isHeld), allIx_ascending.filter _,
    fun i => by simp [List.mem_filter, mem_allIx, State.entryMeets_iff], rfl⟩

theorem frameLineWord_data {ws : List Word} {k : Nat} {w : Word} (h : ws[k]? = some w) : frameLineWord ws (k + 1) = .data w := by
  simp only [frameLineWord, h]

/-- Settles O2: by the events that are due in their order, and by the closed form of a clock period. -/
theorem idleBlockRunsItsClock : Obligations.IdleBlockRunsItsClock := by
  refine ⟨fun s p empty hp => ⟨fun c due => ?_, fun due => ?_⟩, fun _ _ _ _ _ => ⟨rfl, rfl, rfl, rfl⟩,
    fun x => EntryState.tick_same, fun s => ⟨fun arrivals => ?_, fun arrivals changes => ?_, fun arrivals changes => ?_⟩,
    fun s => ⟨fun low => ?_, fun high => ⟨fun owed idle => ?_, fun ended => ?_, fun ws sent sends => ?_⟩⟩⟩
  · rw [step_idle empty]
    simp only [State.idle, due, empty, List.nil_append]
  · obtain ⟨still, word⟩ := s.period_transmitter
    obtain ⟨settles, other, present, silent⟩ := s.periodLine.tick_timers
    obtain ⟨frames, channels, config, identity, rstnLow, ports, choices⟩ := s.clockPeriod_same
    obtain ⟨waiting, taken, changes⟩ := s.clockPeriod_lists
    obtain ⟨receiver, transit, transmitter⟩ := s.clockPeriod_stores
    subst hp
    refine ⟨s.clockPeriod, s.periodEvents, s.termTicks, ?_, s.clockPeriod_time, frames, channels, config, identity, rstnLow,
      ports, choices, waiting, taken, changes, receiver, transit, ?_, ?_, fun timer h => ?_, fun h => ?_, fun timer h => ?_,
      fun h => ?_, fun phase => ⟨?_, fun i => ?_, ?_⟩, fun phase => ⟨?_, s.termTicks_eq, fun i => ⟨?_, ?_⟩, ?_⟩⟩
    · rw [step_idle empty]
      simp only [State.idle, due]
    · rw [transmitter]; exact still
    · rw [transmitter]; exact word
    · rw [s.clockPeriod_line]
      split
      · exact settles timer h
      · exact h
    · rw [s.clockPeriod_line]
      split
      · exact other h
      · rfl
    · rw [s.clockPeriod_line]
      split
      · exact present timer h
      · exact h
    · rw [s.clockPeriod_line]
      split
      · exact silent h
      · exact h
    · rw [s.clockPeriod_pending, if_neg phase, empty, List.nil_append, List.append_nil]
    · rw [State.entry, s.clockPeriod_lease, if_neg phase, State.entry]
    · rw [s.clockPeriod_station, if_neg phase]
    · rw [s.clockPeriod_pending, if_pos phase, empty, List.nil_append]
    · rw [State.entry, s.clockPeriod_lease, if_pos phase]
      simp [State.entry, Vector.get_eq_getElem, Entry.tick]
    · rw [State.tenancy, State.entry, s.clockPeriod_lease, if_pos phase]
      simp [State.tenancy, State.entry, Vector.get_eq_getElem, Entry.tick]
    · rw [s.clockPeriod_station, if_pos phase]
      rfl
  · simp [State.due, arrivals]
  · simp [State.due, arrivals, changes]
  · exact ⟨fun i c expires first => by
      simp only [State.due, arrivals, changes, State.findExpiry_first expires first, List.isEmpty_nil, Bool.not_true,
        Bool.false_eq_true, if_false], State.due_timers arrivals changes⟩
  · simp [State.ringOutWord, low]
  · simp [State.ringOutWord, high, idle]
  · simp [State.ringOutWord, high, ended]
  · refine ⟨fun first => ?_, fun k w place data => ?_⟩
    · simp [State.ringOutWord, high, sends, first, frameLineWord]
    · simp [State.ringOutWord, high, sends, place, frameLineWord_data data]

end Sys2Proof.Machine

namespace Sys2Proof.Machine

open Host.Outcome

/-! ### The release of the HELD entries by a channel reset, in closed form (R57 to R60, R71) -/

/-- How the tag of a HELD tenancy passes on. -/
def State.passingOf (s : State) (i : EntryIx) (v : Tenancy) : Passing :=
  match v.state with
  | .held _ demand => s.passing i v.tag v.mode demand
  | .queuedLocal | .claiming _ _ | .backoff _ | .releasing _ | .closing => .noFrame

/-- A HELD entry of the channel that its reset releases to the ring. -/
def State.ringsAt (s : State) (c : Channel) (i : EntryIx) : Bool :=
  s.entryMeets (fun v => v.owner == c && v.isHeld && decide (s.passingOf i v = .ringRelease)) i

/-- A HELD entry of the channel that its reset makes FREE. -/
def State.letsGoAt (s : State) (c : Channel) (i : EntryIx) : Bool :=
  s.entryMeets (fun v => v.owner == c && v.isHeld && decide (s.passingOf i v ≠ .ringRelease)) i

/-- The procedure for a HELD entry with an empty slot. -/
theorem State.leaveHeld_of_empty {s : State} {i : EntryIx} {v : Tenancy} (h : s.tenancy i = some v) (held : v.isHeld = true)
    (slot : v.deferred = none) :
    s.leaveHeld i = if s.passingOf i v = .ringRelease then (s.toTheRing i, false)
      else (s.freed i, decide (s.passingOf i v = .handOn)) := by
  obtain ⟨remaining, demand, hs⟩ := Tenancy.isHeld_iff.1 held
  have freed : (s.detach i).endTenancy i = s.freed i := by
    rw [State.endTenancy_freed (State.detach_tenancy h) slot, State.detach_freed]
  have passing : s.passingOf i v = s.passing i v.tag v.mode demand := by simp only [State.passingOf, hs]
  rw [State.leaveHeld_eq h hs, freed, passing]
  cases s.passing i v.tag v.mode demand <;> simp

/-- What the release of the HELD entries among some entries of a channel leaves, with the tags to be handed on. -/
structure State.Releases (d : State) (c : Channel) (l : List EntryIx) (r : State × List Tag) : Prop where
  held : ∀ i v, i ∈ l → d.tenancy i = some v → v.owner = c → v.isHeld = true → r.1.tenancy i =
    if d.passingOf i v = .ringRelease then some { v with attached := false, state := .releasing .queued } else none
  other : ∀ i, (i ∉ l ∨ ∀ v, d.tenancy i = some v → v.owner = c → v.isHeld = false) → r.1.tenancy i = d.tenancy i
  waitList : ∀ tag, r.1.waitList tag = d.waitList tag
  taken : r.1.lease.taken = d.lease.taken
  sendList : r.1.frames.sendList = d.frames.sendList.filter (fun x => !l.any fun i => x.isOf i && d.letsGoAt c i) ++
    (l.filter (d.ringsAt c)).map .release
  handOns : ∀ g, g ∈ r.2 ↔ ∃ i v, i ∈ l ∧ d.tenancy i = some v ∧ v.owner = c ∧ v.isHeld = true ∧ v.tag = g ∧
    d.passingOf i v = .handOn
  channels : r.1.channels = d.channels

/-- No two HELD entries of the channel stand on one tag. -/
def State.HoldsApart (s : State) (c : Channel) : Prop :=
  ∀ i j v w, i ≠ j → s.tenancy i = some v → s.tenancy j = some w → v.owner = c → w.owner = c → v.isHeld = true →
    w.isHeld = true → v.tag ≠ w.tag

theorem State.passing_congr {s t : State} {i : EntryIx} {tag : Tag}
    (holders : s.LastHolder i tag ↔ t.LastHolder i tag) (list : s.waitList tag = t.waitList tag)
    (taken : s.lease.taken = t.lease.taken) (m : Mode) (demand : Bool) : s.passing i tag m demand = t.passing i tag m demand := by
  have same : s.otherHolder i tag = t.otherHolder i tag := by
    rw [Bool.eq_iff_iff, State.otherHolder_iff, State.otherHolder_iff, holders]
  simp only [State.passing, same, list, taken]

/-- The entries released before have no part in the passing on of another entry's tag. -/
theorem State.Releases.passing {d : State} {c : Channel} {l : List EntryIx} {r : State × List Tag} (h : d.Releases c l r)
    (apart : d.HoldsApart c) {i : EntryIx} {v : Tenancy} (hv : d.tenancy i = some v) (owner : v.owner = c)
    (held : v.isHeld = true) : r.1.passingOf i v = d.passingOf i v := by
  obtain ⟨remaining, demand, hs⟩ := Tenancy.isHeld_iff.1 held
  simp only [State.passingOf, hs]
  refine State.passing_congr ?_ (h.waitList _) h.taken _ _
  have same (j : EntryIx) (ne : j ≠ i) (w : Tenancy) (on : w.tag = v.tag) (holds : w.isHeld = true) :
      r.1.tenancy j = some w ↔ d.tenancy j = some w := by
    by_cases released : j ∈ l ∧ ∃ x, d.tenancy j = some x ∧ x.owner = c ∧ x.isHeld = true
    · obtain ⟨mem, x, hx, o, holds'⟩ := released
      have off : x.tag ≠ v.tag := apart j i x v ne hx hv o owner holds' held
      rw [h.held j x mem hx o holds', hx]
      constructor
      · intro e
        split at e
        · obtain rfl := Option.some.inj e; cases holds
        · cases e
      · rintro e
        obtain rfl := Option.some.inj e
        exact absurd on off
    · rw [h.other j]
      by_cases mem : j ∈ l
      · exact .inr fun x hx o => by
          rw [← Bool.not_eq_true]
          exact fun holds' => released ⟨mem, x, hx, o, holds'⟩
      · exact .inl mem
  constructor
  · intro last j w ne hw on
    rw [← Bool.not_eq_true]
    intro holds
    have := last j w ne ((same j ne w on holds).2 hw) on
    rw [holds] at this; cases this
  · intro last j w ne hw on
    rw [← Bool.not_eq_true]
    intro holds
    have := last j w ne ((same j ne w on holds).1 hw) on
    rw [holds] at this; cases this

/-! ### One entry released -/

theorem State.not_mem_waitList_of_held {s : State} {i : EntryIx} {v : Tenancy} (h : s.tenancy i = some v)
    (held : v.isHeld = true) (tag : Tag) : i ∉ s.waitList tag := fun m => by
  obtain ⟨-, w, hw, -, queued⟩ := State.mem_waitList.1 m
  obtain rfl := Option.some.inj (h.symm.trans hw)
  obtain ⟨remaining, demand, hs⟩ := Tenancy.isHeld_iff.1 held
  simp [Tenancy.isQueued, hs, EntryState.name] at queued

theorem State.freed_waitList_of_held {s : State} {i : EntryIx} {v : Tenancy} (h : s.tenancy i = some v)
    (held : v.isHeld = true) (tag : Tag) : (s.freed i).waitList tag = s.waitList tag := by
  rw [State.freed_waitList]
  refine List.filter_eq_self.2 fun j m => ?_
  have : j ≠ i := fun e => State.not_mem_waitList_of_held h held tag (e ▸ m)
  simpa using this

theorem State.freed_tenancy (s : State) (i j : EntryIx) : (s.freed i).tenancy j = if i = j then none else s.tenancy j := by
  simp [State.freed, State.setEntry_tenancy]

theorem State.freed_sendList (s : State) (i : EntryIx) :
    (s.freed i).frames.sendList = s.frames.sendList.filter fun x => !x.isOf i := by
  simp only [SendItem.not_isOf_eq]; rfl

theorem State.toTheRing_tenancy {s : State} {i : EntryIx} {v : Tenancy} (h : s.tenancy i = some v) (j : EntryIx) :
    (s.toTheRing i).tenancy j =
      if i = j then some { v with attached := false, state := .releasing .queued } else s.tenancy j := by
  simp only [State.toTheRing, State.setSendList_tenancy, State.modifyTenancy_tenancy, h, Option.map_some]

theorem State.toTheRing_waitList {s : State} {i : EntryIx} {v : Tenancy} (h : s.tenancy i = some v) (held : v.isHeld = true)
    (tag : Tag) : (s.toTheRing i).waitList tag = s.waitList tag := by
  obtain ⟨remaining, demand, hs⟩ := Tenancy.isHeld_iff.1 held
  have waiting : (s.toTheRing i).lease.waiting = s.lease.waiting := rfl
  simp only [State.waitList, waiting]
  refine List.filter_congr fun j _ => ?_
  have after := State.toTheRing_tenancy h j
  by_cases e : i = j
  · subst e
    rw [if_pos rfl] at after
    rw [Bool.eq_iff_iff, State.onTag_iff, State.onTag_iff]
    simp [after, h, Tenancy.isQueued_iff, hs]
  · simp [State.onTag, State.entryMeets, after, e]

/-- An entry that is no HELD one of the channel is passed over. -/
theorem State.resetRelease_pass {c : Channel} {r : State × List Tag} {i : EntryIx}
    (h : ∀ v, r.1.tenancy i = some v → v.owner = c → v.isHeld = false) : State.resetRelease c r i = r := by
  unfold State.resetRelease
  split
  · next v hv =>
    split
    · next meets =>
      simp only [Bool.and_eq_true, beq_iff_eq] at meets
      rw [h v hv meets.1] at meets; cases meets.2
    · rfl
  · rfl

theorem State.resetRelease_held {c : Channel} {r : State × List Tag} {i : EntryIx} {v : Tenancy} (h : r.1.tenancy i = some v)
    (owner : v.owner = c) (held : v.isHeld = true) (slot : v.deferred = none) : State.resetRelease c r i =
      if r.1.passingOf i v = .ringRelease then (r.1.toTheRing i, r.2)
      else (r.1.freed i, if r.1.passingOf i v = .handOn then v.tag :: r.2 else r.2) := by
  simp only [State.resetRelease, h, owner, held, State.leaveHeld_of_empty h held slot]
  cases r.1.passingOf i v <;> simp

theorem State.Releases.start (d : State) (c : Channel) : d.Releases c [] (d, []) :=
  ⟨by simp, by simp, fun _ => rfl, rfl, by simp, by simp, rfl⟩

theorem State.Releases.step_pass {d : State} {c : Channel} {l : List EntryIx} {r : State × List Tag} (h : d.Releases c l r)
    {i : EntryIx} (new : i ∉ l) (pass : ∀ v, d.tenancy i = some v → v.owner = c → v.isHeld = false) :
    d.Releases c (l ++ [i]) (State.resetRelease c r i) := by
  have here : r.1.tenancy i = d.tenancy i := h.other i (.inl new)
  have not_held {v : Tenancy} (hv : d.tenancy i = some v) (owner : v.owner = c) (held : v.isHeld = true) : False := by
    rw [pass v hv owner] at held; cases held
  have off (p : Passing → Bool) : d.entryMeets (fun v => v.owner == c && v.isHeld && p (d.passingOf i v)) i = false := by
    rw [← Bool.not_eq_true, State.entryMeets_iff]
    rintro ⟨v, hv, m⟩
    simp only [Bool.and_eq_true, beq_iff_eq] at m
    exact not_held hv m.1.1 m.1.2
  have rings : d.ringsAt c i = false := off fun p => decide (p = .ringRelease)
  have goes : d.letsGoAt c i = false := off fun p => decide (p ≠ .ringRelease)
  rw [State.resetRelease_pass fun v hv => pass v (here ▸ hv)]
  refine ⟨fun j v m hv owner held => ?_, fun j m => ?_, h.waitList, h.taken, ?_, fun g => ?_, h.channels⟩
  · rcases List.mem_append.1 m with m | m
    · exact h.held j v m hv owner held
    · obtain rfl := List.mem_singleton.1 m
      exact (not_held hv owner held).elim
  · exact h.other j (m.imp_left fun m k => m (List.mem_append_left _ k))
  · rw [h.sendList]
    simp [List.filter_append, rings, goes]
  · rw [h.handOns]
    refine exists_congr fun j => exists_congr fun v => and_congr_left fun ⟨hv, owner, held, _⟩ => ?_
    rw [List.mem_append, List.mem_singleton]
    exact ⟨.inl, fun m => m.resolve_right fun e => not_held (e ▸ hv) owner held⟩

/-- One HELD entry of the channel more is released. -/
theorem State.Releases.step_held {d : State} {c : Channel} {l : List EntryIx} {r : State × List Tag} (h : d.Releases c l r)
    (apart : d.HoldsApart c) (empty : d.SlotsEmpty c) {i : EntryIx} {v : Tenancy} (new : i ∉ l) (hv : d.tenancy i = some v)
    (owner : v.owner = c) (held : v.isHeld = true) : d.Releases c (l ++ [i]) (State.resetRelease c r i) := by
  have here : r.1.tenancy i = some v := (h.other i (.inl new)).trans hv
  have ne {j : EntryIx} (m : j ∈ l) : i ≠ j := fun e => new (e ▸ m)
  have known {j : EntryIx} {w : Tenancy} (hw : d.tenancy j = some w) (e : j = i) : w = v := by
    subst e; exact Option.some.inj (hw.symm.trans hv)
  have split_ {j : EntryIx} (m : j ∈ l ++ [i]) : j ∈ l ∨ j = i := by simpa using m
  rw [State.resetRelease_held here owner held (empty i v hv owner), h.passing apart hv owner held]
  by_cases ring : d.passingOf i v = .ringRelease
  · have rings : d.ringsAt c i = true := by simp [State.ringsAt, State.entryMeets, hv, owner, held, ring]
    have goes : d.letsGoAt c i = false := by simp [State.letsGoAt, State.entryMeets, hv, owner, held, ring]
    rw [if_pos ring]
    refine ⟨fun j w m hw o holds => ?_, fun j m => ?_, fun tag => ?_, h.taken, ?_, fun g => ?_, h.channels⟩
    · rw [State.toTheRing_tenancy here]
      rcases split_ m with m | e
      · rw [if_neg (ne m)]; exact h.held j w m hw o holds
      · obtain rfl := known hw e
        subst e
        rw [if_pos rfl, if_pos ring]
    · rw [State.toTheRing_tenancy here, if_neg]
      · exact h.other j (m.imp_left fun m k => m (List.mem_append_left _ k))
      · rintro rfl
        rcases m with m | m
        · exact m (by simp)
        · rw [m v hv owner] at held; cases held
    · rw [State.toTheRing_waitList here held, h.waitList]
    · have sent : (r.1.toTheRing i).frames.sendList = r.1.frames.sendList ++ [.release i] := rfl
      rw [sent, h.sendList]
      simp [List.filter_append, rings, goes]
    · rw [h.handOns]
      refine exists_congr fun j => exists_congr fun w => and_congr_left fun ⟨hw, _, _, _, on⟩ => ?_
      refine ⟨fun m => List.mem_append_left _ m, fun m => (split_ m).resolve_right fun e => ?_⟩
      obtain rfl := known hw e
      rw [e, ring] at on; cases on
  · have rings : d.ringsAt c i = false := by simp [State.ringsAt, State.entryMeets, hv, owner, held, ring]
    have goes : d.letsGoAt c i = true := by simp [State.letsGoAt, State.entryMeets, hv, owner, held, ring]
    rw [if_neg ring]
    refine ⟨fun j w m hw o holds => ?_, fun j m => ?_, fun tag => ?_, h.taken, ?_, fun g => ?_, h.channels⟩
    · rw [State.freed_tenancy]
      rcases split_ m with m | e
      · rw [if_neg (ne m)]; exact h.held j w m hw o holds
      · obtain rfl := known hw e
        subst e
        rw [if_pos rfl, if_neg ring]
    · rw [State.freed_tenancy, if_neg]
      · exact h.other j (m.imp_left fun m k => m (List.mem_append_left _ k))
      · rintro rfl
        rcases m with m | m
        · exact m (by simp)
        · rw [m v hv owner] at held; cases held
    · rw [State.freed_waitList_of_held here held, h.waitList]
    · rw [State.freed_sendList, h.sendList, List.filter_append, List.filter_filter]
      have items : ((l.filter (d.ringsAt c)).map SendItem.release).filter (fun x => !x.isOf i) =
          (l.filter (d.ringsAt c)).map SendItem.release := by
        refine List.filter_eq_self.2 fun x m => ?_
        obtain ⟨j, mj, rfl⟩ := List.mem_map.1 m
        simpa [SendItem.isOf] using ne (List.mem_filter.1 mj).1
      rw [items]
      simp [List.filter_append, rings, goes, Bool.and_comm]
    · have here_ : (∃ w, d.tenancy i = some w ∧ w.owner = c ∧ w.isHeld = true ∧ w.tag = g ∧ d.passingOf i w = .handOn) ↔
          v.tag = g ∧ d.passingOf i v = .handOn := by
        simp [hv, owner, held]
      have all : (∃ j w, j ∈ l ++ [i] ∧ d.tenancy j = some w ∧ w.owner = c ∧ w.isHeld = true ∧ w.tag = g ∧
          d.passingOf j w = .handOn) ↔ g ∈ r.2 ∨ v.tag = g ∧ d.passingOf i v = .handOn := by
        rw [h.handOns, ← here_]
        constructor
        · rintro ⟨j, w, m, rest⟩
          rcases split_ m with m | rfl
          · exact .inl ⟨j, w, m, rest⟩
          · exact .inr ⟨w, rest⟩
        · rintro (⟨j, w, m, rest⟩ | ⟨w, rest⟩)
          · exact ⟨j, w, List.mem_append_left _ m, rest⟩
          · exact ⟨i, w, by simp, rest⟩
      rw [all]
      dsimp only
      split
      · next on => simp [on, or_comm, eq_comm]
      · next off => simp [off]

theorem State.releases_foldl {d : State} {c : Channel} (apart : d.HoldsApart c) (empty : d.SlotsEmpty c) {l : List EntryIx}
    (nodup : l.Nodup) : d.Releases c l (l.foldl (State.resetRelease c) (d, [])) := by
  induction l using List.reverseRecOn with
  | nil => exact .start d c
  | append_singleton l i ih =>
    obtain ⟨before, -, apart_⟩ := List.nodup_append.1 nodup
    have new : i ∉ l := fun m => apart_ i m i (by simp) rfl
    rw [List.foldl_append, List.foldl_cons, List.foldl_nil]
    by_cases holds : ∃ v, d.tenancy i = some v ∧ v.owner = c ∧ v.isHeld = true
    · obtain ⟨v, hv, owner, held⟩ := holds
      exact (ih before).step_held apart empty new hv owner held
    · refine (ih before).step_pass new fun v hv owner => ?_
      rw [← Bool.not_eq_true]
      exact fun held => holds ⟨v, hv, owner, held⟩

end Sys2Proof.Machine

namespace Sys2Proof.Machine

open Host.Outcome

/-! ### The claims in flight detached by a channel reset, in closed form (R71) -/

/-- A claim of the channel detached. -/
def Tenancy.resetDetached (c : Channel) (t : Tenancy) : Tenancy :=
  if t.owner = c ∧ t.state.name = .claiming then { t with attached := false } else t

theorem State.resetDetach_tenancy (c : Channel) (s : State) (i j : EntryIx) :
    (State.resetDetach c s i).tenancy j = if i = j then (s.tenancy i).map (Tenancy.resetDetached c) else s.tenancy j := by
  unfold State.resetDetach
  split
  · next meets =>
    obtain ⟨v, hv, m⟩ := State.entryMeets_iff.1 meets
    simp only [Bool.and_eq_true, beq_iff_eq] at m
    rw [State.detach, State.modifyTenancy_tenancy]
    simp [hv, Tenancy.resetDetached, m]
  · next meets =>
    split
    · next e =>
      subst e
      cases hv : s.tenancy i with
      | none => rfl
      | some v =>
        have : ¬ (v.owner = c ∧ v.state.name = .claiming) := fun m => meets (State.entryMeets_iff.2 ⟨v, hv, by simp [m]⟩)
        simp [Tenancy.resetDetached, this]
    · rfl

theorem Tenancy.resetDetached_twice (c : Channel) (t : Tenancy) :
    (t.resetDetached c).resetDetached c = t.resetDetached c := by
  unfold Tenancy.resetDetached
  split <;> simp_all

theorem State.resetDetach_foldl_tenancy (c : Channel) (l : List EntryIx) (s : State) (j : EntryIx) :
    (l.foldl (State.resetDetach c) s).tenancy j =
      if j ∈ l then (s.tenancy j).map (Tenancy.resetDetached c) else s.tenancy j := by
  induction l generalizing s with
  | nil => simp
  | cons i l ih =>
    rw [List.foldl_cons, ih, State.resetDetach_tenancy]
    by_cases e : i = j
    · subst e
      cases s.tenancy i with
      | none => simp
      | some v => simp [Tenancy.resetDetached_twice]
    · simp [e, Ne.symm e]

theorem State.resetDetach_foldl_lists (c : Channel) (l : List EntryIx) (s : State) :
    (l.foldl (State.resetDetach c) s).lease.waiting = s.lease.waiting ∧
      (l.foldl (State.resetDetach c) s).frames = s.frames ∧ (l.foldl (State.resetDetach c) s).channels = s.channels := by
  have one (s : State) (i : EntryIx) : (State.resetDetach c s i).lease.waiting = s.lease.waiting ∧
      (State.resetDetach c s i).frames = s.frames ∧ (State.resetDetach c s i).channels = s.channels := by
    unfold State.resetDetach
    split <;> exact ⟨rfl, rfl, rfl⟩
  induction l generalizing s with
  | nil => exact ⟨rfl, rfl, rfl⟩
  | cons i l ih =>
    obtain ⟨w, f, h⟩ := ih (State.resetDetach c s i)
    obtain ⟨w', f', h'⟩ := one s i
    exact ⟨w.trans w', f.trans f', h.trans h'⟩

theorem State.resetDetached_tenancy (s : State) (c : Channel) (i : EntryIx) :
    (s.resetDetached c).tenancy i = (s.tenancy i).bind fun v => (v.resetFreed c).map (Tenancy.resetDetached c) := by
  have folded := State.resetDetach_foldl_tenancy c allIx (s.resetFreed c) i
  rw [if_pos (mem_allIx i), State.resetFreed_tenancy] at folded
  rw [State.resetDetached, folded]
  cases s.tenancy i <;> rfl

theorem State.resetDetached_work (s : State) (c : Channel) : s.LeaseWork (s.resetDetached c) :=
  (s.resetFreed_work c).trans (State.foldl_work (State.resetDetach_work c) allIx _)

/-- What is left of an entry once the claims are detached. -/
theorem State.resetDetached_entry {s : State} {c : Channel} {i : EntryIx} {u : Tenancy} (h : s.tenancy i = some u) :
    (u.owner ≠ c → (s.resetDetached c).tenancy i = some u) ∧
      (u.owner = c → u.resetFrees = true → (s.resetDetached c).tenancy i = none) ∧
      (u.owner = c → ∀ serial circuit lost, u.state = .claiming (.inFlight serial circuit) lost →
        (s.resetDetached c).tenancy i = some { u with attached := false, deferred := none }) ∧
      (u.owner = c → (u.isHeld = true ∨ ∃ phase, u.state = .releasing phase) →
        (s.resetDetached c).tenancy i = some { u with deferred := none }) := by
  rw [State.resetDetached_tenancy, h, Option.bind_some]
  refine ⟨fun o => ?_, fun o f => ?_, fun o serial circuit lost hs => ?_, fun o hs => ?_⟩
  · simp [Tenancy.resetFreed, Tenancy.resetDetached, o]
  · simp [Tenancy.resetFreed, o, f]
  · simp [Tenancy.resetFreed, Tenancy.resetDetached, Tenancy.resetFrees, o, hs, EntryState.name]
  · have kept : u.resetFrees = false ∧ u.state.name ≠ .claiming := by
      rcases hs with held | ⟨phase, hs⟩
      · obtain ⟨remaining, demand, hs⟩ := Tenancy.isHeld_iff.1 held
        simp [Tenancy.resetFrees, hs, EntryState.name]
      · simp [Tenancy.resetFrees, hs, EntryState.name]
    simp [Tenancy.resetFreed, Tenancy.resetDetached, o, kept]

/-- A HELD entry was HELD before, in all but its slot. -/
theorem State.resetDetached_held {s : State} {c : Channel} {i : EntryIx} {v : Tenancy}
    (h : (s.resetDetached c).tenancy i = some v) (held : v.isHeld = true) :
    ∃ u, s.tenancy i = some u ∧ u.isHeld = true ∧ (v = u ∧ u.owner ≠ c ∨ v = { u with deferred := none } ∧ u.owner = c) := by
  rw [State.resetDetached_tenancy] at h
  obtain ⟨u, hu, hv⟩ := Option.bind_eq_some_iff.1 h
  obtain ⟨w, hw, rfl⟩ := Option.map_eq_some_iff.1 hv
  have holds : w.isHeld = true := by
    unfold Tenancy.resetDetached at held
    split at held <;> exact held
  have same : w.resetDetached c = w := by
    obtain ⟨remaining, demand, hs⟩ := Tenancy.isHeld_iff.1 holds
    simp [Tenancy.resetDetached, hs, EntryState.name]
  rw [same]
  rcases Tenancy.resetFreed_eq_some hw with ⟨o, rfl⟩ | ⟨o, -, rfl⟩
  · exact ⟨w, hu, holds, .inl ⟨rfl, o⟩⟩
  · exact ⟨u, hu, holds, .inr ⟨rfl, o⟩⟩

/-- What is left of the channel's entries holds no notice and does not wait. -/
theorem State.resetDetached_own {s : State} {c : Channel} {i : EntryIx} {v : Tenancy}
    (h : (s.resetDetached c).tenancy i = some v) (owner : v.owner = c) : v.deferred = none ∧ v.isQueued = false := by
  rw [State.resetDetached_tenancy] at h
  obtain ⟨u, -, hv⟩ := Option.bind_eq_some_iff.1 h
  obtain ⟨w, hw, rfl⟩ := Option.map_eq_some_iff.1 hv
  have kept : (w.resetDetached c).owner = w.owner ∧ (w.resetDetached c).deferred = w.deferred ∧
      (w.resetDetached c).state = w.state := by
    unfold Tenancy.resetDetached
    split <;> exact ⟨rfl, rfl, rfl⟩
  rw [kept.1] at owner
  rw [kept.2.1, ← Bool.not_eq_true, Tenancy.isQueued_iff, kept.2.2]
  rcases Tenancy.resetFreed_eq_some hw with ⟨o, rfl⟩ | ⟨-, f, rfl⟩
  · exact absurd owner o
  · refine ⟨rfl, fun queued => ?_⟩
    rw [Tenancy.resetFrees_of_waits (v := u) queued] at f; cases f

theorem State.resetDetached_slotsEmpty (s : State) (c : Channel) : (s.resetDetached c).SlotsEmpty c :=
  fun _ _ h owner => (State.resetDetached_own h owner).1

/-- No channel has two HELD entries on one tag, for they are attached (R7, R8). -/
theorem State.resetDetached_holdsApart {s : State} (law : s.AttachmentLaw) (c : Channel) : (s.resetDetached c).HoldsApart c := by
  have before {i : EntryIx} {v : Tenancy} (h : (s.resetDetached c).tenancy i = some v) (held : v.isHeld = true) :
      ∃ u, s.tenancy i = some u ∧ u.attached = true ∧ u.owner = v.owner ∧ u.tag = v.tag := by
    obtain ⟨u, hu, holds, same⟩ := State.resetDetached_held h held
    obtain ⟨remaining, demand, hs⟩ := Tenancy.isHeld_iff.1 holds
    have attached := law.1 i u hu
    simp only [Tenancy.AttachmentFollows, hs] at attached
    rcases same with ⟨e, -⟩ | ⟨e, -⟩ <;> exact ⟨u, hu, attached, by rw [e], by rw [e]⟩
  intro i j v w ne hv hw ov ow held held'
  obtain ⟨u, hu, attached, o, g⟩ := before hv held
  obtain ⟨x, hx, attached', o', g'⟩ := before hw held'
  rw [← g, ← g']
  exact law.2 i j u x ne hu hx attached attached' (by rw [o, o', ov, ow])

theorem State.resetDetached_lastHolder (s : State) (c : Channel) (i : EntryIx) (tag : Tag) :
    (s.resetDetached c).LastHolder i tag ↔ s.LastHolder i tag := by
  constructor
  · intro last j u ne hu on
    rw [← Bool.not_eq_true]
    intro held
    by_cases o : u.owner = c
    · have := last j _ ne ((State.resetDetached_entry hu).2.2.2 o (.inl held)) on
      exact Bool.noConfusion (this.symm.trans held)
    · have := last j _ ne ((State.resetDetached_entry hu).1 o) on
      exact Bool.noConfusion (this.symm.trans held)
  · intro last j v ne hv on
    rw [← Bool.not_eq_true]
    intro held
    obtain ⟨u, hu, holds, same⟩ := State.resetDetached_held hv held
    have := last j u ne hu (by rcases same with ⟨rfl, _⟩ | ⟨rfl, _⟩ <;> exact on)
    exact Bool.noConfusion (this.symm.trans holds)

theorem State.resetDetached_waitList (s : State) (c : Channel) (tag : Tag) :
    (s.resetDetached c).waitList tag = s.othersWaiting c tag := by
  have waiting : (s.resetDetached c).lease.waiting = s.lease.waiting.filter fun j => !s.resetFreesAt c j := by
    rw [State.resetDetached, (State.resetDetach_foldl_lists c allIx _).1, State.resetFreed_waiting]
  rw [State.waitList, waiting, State.othersWaiting, State.waitList, List.filter_filter, List.filter_filter]
  refine List.filter_congr fun j _ => ?_
  cases h : s.tenancy j with
  | none => simp [State.onTag, State.entryMeets, (s.resetDetached_work c).free j h, h]
  | some u =>
    have other := (State.resetDetached_entry (c := c) h).1
    by_cases o : u.owner = c
    · have off : (s.resetDetached c).onTag tag Tenancy.isQueued j = false := by
        rw [← Bool.not_eq_true, State.onTag_iff]
        rintro ⟨v, hv, -, queued⟩
        obtain ⟨w, hw, owner, -⟩ := (s.resetDetached_work c).fixed j v hv
        obtain rfl := Option.some.inj (h.symm.trans hw)
        rw [(State.resetDetached_own hv (owner.trans o)).2] at queued; cases queued
      simp [off, State.entryMeets, h, o]
    · have not_own : (u.owner == c) = false := by simpa using o
      simp [State.onTag, State.entryMeets, State.resetFreesAt, other o, h, not_own]

/-! ### The HELD entries released -/

theorem State.resetReleased_releases {s : State} (law : s.AttachmentLaw) (c : Channel) :
    (s.resetDetached c).Releases c allIx (s.resetReleased c) := by
  rw [State.resetReleased]
  exact State.releases_foldl (State.resetDetached_holdsApart law c) (s.resetDetached_slotsEmpty c) (List.nodup_finRange 64)

theorem State.resetReleased_work (s : State) (c : Channel) : s.LeaseWork (s.resetReleased c).1 := by
  have of_list (l : List EntryIx) (u : State) (r : State × List Tag) (h : r = l.foldl (State.resetRelease c) (u, [])) :
      u.LeaseWork r.1 := by
    rw [h]
    exact State.resetReleases_work c l (u, [])
  exact (s.resetDetached_work c).trans (of_list allIx _ _ (by rw [State.resetReleased]))

/-- How the tag of a HELD entry of the channel passes on, in the words of R57 to R60. -/
theorem State.resetDetached_passing {s : State} {c : Channel} {i : EntryIx} {u : Tenancy} (held : u.isHeld = true) :
    ((s.resetDetached c).passingOf i { u with deferred := none } = .handOn ↔ s.ResetHandsOn c i u) ∧
      ((s.resetDetached c).passingOf i { u with deferred := none } = .ringRelease ↔ s.ResetToTheRing c i u) := by
  obtain ⟨remaining, demand, hs⟩ := Tenancy.isHeld_iff.1 held
  have last := s.resetDetached_lastHolder c i u.tag
  have list := s.resetDetached_waitList c u.tag
  have taken := (s.resetDetached_work c).taken
  obtain ⟨others, hands, rest⟩ := (s.resetDetached c).passing_eq i u.tag u.mode demand
  rw [last, list, taken] at rest
  rw [last] at others
  have passing : (s.resetDetached c).passingOf i { u with deferred := none } =
      (s.resetDetached c).passing i u.tag u.mode demand := by simp only [State.passingOf, hs]
  have handsOn : s.ResetHandsOn c i u ↔ demand = false ∧ u.mode = .exclusive ∧ s.LastHolder i u.tag ∧
      s.othersWaiting c u.tag ≠ [] := by
    have flag : (∃ remaining, u.state = .held remaining false) ↔ demand = false := by simp [hs]
    rw [State.ResetHandsOn, flag]
  rw [passing]
  by_cases lastly : s.LastHolder i u.tag
  · by_cases hand : s.ResetHandsOn c i u
    · obtain ⟨d, m, -, waits⟩ := handsOn.1 hand
      obtain ⟨j, behind, ordered⟩ := List.exists_cons_of_ne_nil waits
      have on := hands j behind (last.2 lastly) m d (list.trans ordered)
      simp [on, hand, State.ResetToTheRing]
    · have why : u.mode = .shared ∨ demand = true ∨ s.othersWaiting c u.tag = [] := by
        by_contra none_
        simp only [not_or] at none_
        refine hand (handsOn.2 ⟨by simpa using none_.2.1, ?_, lastly, none_.2.2⟩)
        cases m : u.mode with
        | shared => exact absurd m none_.1
        | exclusive => rfl
      rw [rest lastly why]
      by_cases up : s.lease.taken = .up <;> simp [up, hand, State.ResetToTheRing, held, lastly]
  · rw [others lastly]
    simp [State.ResetHandsOn, State.ResetToTheRing, lastly]

/-- What is left of the channel's entries before the examinations, by what the reset does to them. -/
theorem State.resetReleased_entry {s : State} (law : s.AttachmentLaw) {c : Channel} {i : EntryIx} {u : Tenancy}
    (hu : s.tenancy i = some u) (owner : u.owner = c) :
    (u.resetFrees = true → (s.resetDetached c).tenancy i = none ∧ (s.resetReleased c).1.tenancy i = none) ∧
      (∀ v, (s.resetDetached c).tenancy i = some v → v.isHeld = false → (s.resetReleased c).1.tenancy i = some v) ∧
      (u.isHeld = true → (s.ResetToTheRing c i u →
        (s.resetReleased c).1.tenancy i = some { u with attached := false, deferred := none, state := .releasing .queued }) ∧
        (¬ s.ResetToTheRing c i u → (s.resetReleased c).1.tenancy i = none)) := by
  have releases := State.resetReleased_releases law c
  obtain ⟨-, freed, -, keeps⟩ := State.resetDetached_entry (c := c) hu
  refine ⟨fun frees => ⟨freed owner frees, ?_⟩, fun v hv idle => ?_, fun held => ?_⟩
  · have none_ := freed owner frees
    exact (releases.other i (.inr fun v hv => by rw [none_] at hv; cases hv)).trans none_
  · refine (releases.other i (.inr fun w hw _ => ?_)).trans hv
    obtain rfl := Option.some.inj (hv.symm.trans hw)
    exact idle
  · have left := releases.held i _ (mem_allIx i) (keeps owner (.inl held)) owner held
    have rings := (State.resetDetached_passing (s := s) (c := c) (i := i) held).2
    exact ⟨fun toRing => by rw [left, if_pos (rings.2 toRing)], fun stays => by rw [left, if_neg fun e => stays (rings.1 e)]⟩

/-- The entries of the channel before the examinations (R57 to R60, R71, R142). -/
theorem State.resetReleased_entries {s : State} (law : s.AttachmentLaw) (c : Channel) :
    s.ResetEntries c (s.resetReleased c).1 := fun i u hu owner => by
  obtain ⟨-, -, claims, keeps⟩ := State.resetDetached_entry (c := c) hu
  obtain ⟨freed, stays, released⟩ := State.resetReleased_entry law hu owner
  split
  · next serial circuit lost hs =>
    exact stays _ (claims owner serial circuit lost hs) (by simp [Tenancy.isHeld, hs, EntryState.name])
  · next phase hs => exact stays _ (keeps owner (.inr ⟨phase, hs⟩)) (by simp [Tenancy.isHeld, hs, EntryState.name])
  · next hs => exact (freed (by simp [Tenancy.resetFrees, hs])).2
  · next hs => exact (freed (by simp [Tenancy.resetFrees, hs])).2
  · next hs => exact (freed (by simp [Tenancy.resetFrees, hs])).2
  · next hs => exact (freed (by simp [Tenancy.resetFrees, hs])).2
  · next hs => exact released (by simp [Tenancy.isHeld, hs, EntryState.name])

/-- Entries of other channels stand as before (R71). -/
theorem State.resetReleased_others {s : State} (law : s.AttachmentLaw) {c : Channel} {i : EntryIx}
    (other : ∀ u, s.tenancy i = some u → u.owner ≠ c) : (s.resetReleased c).1.tenancy i = s.tenancy i := by
  cases h : s.tenancy i with
  | none => exact (s.resetReleased_work c).free i h
  | some u =>
    have kept := (State.resetDetached_entry h).1 (other u h)
    refine ((State.resetReleased_releases law c).other i (.inr fun v hv owner => ?_)).trans kept
    obtain rfl := Option.some.inj (kept.symm.trans hv)
    exact absurd owner (other u h)

theorem State.letsGoAt_none {d : State} {c : Channel} {i : EntryIx} (h : d.tenancy i = none) : d.letsGoAt c i = false := by
  simp [State.letsGoAt, State.entryMeets, h]

theorem State.letsGoAt_some {d : State} {c : Channel} {i : EntryIx} {v : Tenancy} (h : d.tenancy i = some v) :
    d.letsGoAt c i = (v.owner == c && v.isHeld && decide (d.passingOf i v ≠ .ringRelease)) := by
  simp only [State.letsGoAt, State.entryMeets, h]

theorem State.resetFreesAt_some {s : State} {c : Channel} {i : EntryIx} {u : Tenancy} (h : s.tenancy i = some u) :
    s.resetFreesAt c i = (u.owner == c && u.resetFrees) := by
  simp only [State.resetFreesAt, State.entryMeets, h]

/-- The entries that a channel reset makes FREE, with their send list items: at once, or out of HELD. -/
theorem State.resetReleased_gone {s : State} (law : s.AttachmentLaw) (c : Channel) (i : EntryIx) :
    ((s.tenancy i).isSome && ((s.resetReleased c).1.tenancy i).isNone) =
      (s.resetFreesAt c i || (s.resetDetached c).letsGoAt c i) := by
  cases h : s.tenancy i with
  | none =>
    rw [State.letsGoAt_none ((s.resetDetached_work c).free i h)]
    simp [State.resetFreesAt, State.entryMeets, h]
  | some u =>
    obtain ⟨other, freed, claims, keeps⟩ := State.resetDetached_entry (c := c) h
    rw [State.resetFreesAt_some h, Option.isSome_some, Bool.true_and]
    by_cases owner : u.owner = c
    · obtain ⟨frees, stays, released⟩ := State.resetReleased_entry law h owner
      have own : (u.owner == c) = true := by simpa using owner
      cases f : u.resetFrees with
      | true => rw [(frees f).2, own]; rfl
      | false =>
        cases held : u.isHeld with
        | true =>
          have rings := (State.resetDetached_passing (s := s) (c := c) (i := i) held).2
          have lets := State.letsGoAt_some (c := c) (keeps owner (.inl held))
          rw [own, Bool.and_false, Bool.false_or, lets, show ({ u with deferred := none } : Tenancy).isHeld = true from held,
            own, Bool.true_and, Bool.true_and]
          by_cases toRing : s.ResetToTheRing c i u
          · rw [(released held).1 toRing, decide_eq_false (not_not.2 (rings.2 toRing))]; rfl
          · rw [(released held).2 toRing, decide_eq_true (mt rings.1 toRing)]; rfl
        | false =>
          obtain ⟨v, left, idle⟩ : ∃ v, (s.resetDetached c).tenancy i = some v ∧ v.isHeld = false := by
            cases hs : u.state with
            | claiming phase lost =>
              cases phase with
              | queued => simp [Tenancy.resetFrees, hs] at f
              | inFlight serial circuit => exact ⟨_, claims owner serial circuit lost hs, held⟩
            | releasing phase => exact ⟨_, keeps owner (.inr ⟨phase, hs⟩), held⟩
            | held remaining demand => simp [Tenancy.isHeld, hs, EntryState.name] at held
            | _ => simp [Tenancy.resetFrees, hs] at f
          rw [stays v left idle, State.letsGoAt_some left, idle]
          simp
    · have own : (u.owner == c) = false := by simpa using owner
      rw [State.resetReleased_others law fun w hw => by obtain rfl := Option.some.inj (h.symm.trans hw); exact owner,
        State.letsGoAt_some (other owner), own, h]
      rfl

end Sys2Proof.Machine

namespace Sys2Proof.Machine

open Host.Outcome

/-! ### The state of a channel reset before its examinations (R71, R142) -/

theorem State.resetReleased_waitList {s : State} (law : s.AttachmentLaw) (c : Channel) (tag : Tag) :
    (s.resetReleased c).1.waitList tag = s.othersWaiting c tag :=
  ((State.resetReleased_releases law c).waitList tag).trans (s.resetDetached_waitList c tag)

theorem State.resetReleased_channel {s : State} (law : s.AttachmentLaw) (c d : Channel) :
    (s.resetReleased c).1.channel d = if c = d then { s.channel c with queue := [], deferral := [] } else s.channel d := by
  have channels : (s.resetReleased c).1.channels = (s.resetFreed c).channels :=
    (State.resetReleased_releases law c).channels.trans (State.resetDetach_foldl_lists c allIx _).2.2
  rw [← s.resetFreed_channel c d, State.channel, channels]
  rfl

theorem State.resetDetached_sendList (s : State) (c : Channel) : (s.resetDetached c).frames.sendList =
    s.frames.sendList.filter fun x => !allIx.any fun i => x.isOf i && s.resetFreesAt c i := by
  rw [State.resetDetached, (State.resetDetach_foldl_lists c allIx _).2.1, (s.resetFreed_frees c).sendList]
  simp only [State.resetEvents_resetFreesAt]
  rfl

/-- The entries of the channel that its reset releases to the ring, in ascending order of index. -/
def State.resetRings (s : State) (c : Channel) : List EntryIx := allIx.filter ((s.resetDetached c).ringsAt c)

theorem State.mem_resetRings {s : State} {c : Channel} {i : EntryIx} :
    i ∈ s.resetRings c ↔ ∃ u, s.tenancy i = some u ∧ u.owner = c ∧ s.ResetToTheRing c i u := by
  rw [State.resetRings, List.mem_filter, State.ringsAt, State.entryMeets_iff]
  simp only [Bool.and_eq_true, beq_iff_eq, decide_eq_true_eq]
  constructor
  · rintro ⟨-, v, hv, ⟨owner, held⟩, rings⟩
    obtain ⟨u, hu, holds, ⟨rfl, o⟩ | ⟨rfl, o⟩⟩ := State.resetDetached_held hv held
    · exact absurd owner o
    · exact ⟨u, hu, o, (State.resetDetached_passing holds).2.1 rings⟩
  · rintro ⟨u, hu, owner, toRing⟩
    have detached := (State.resetDetached_entry hu).2.2.2 owner (.inl toRing.1)
    exact ⟨mem_allIx i, _, detached, ⟨owner, toRing.1⟩, (State.resetDetached_passing toRing.1).2.2 toRing⟩

/-- The items of the entries made FREE are gone, and those of the releases have joined the tail (R59, R71). -/
theorem State.resetReleased_sendList {s : State} (law : s.AttachmentLaw) (c : Channel) :
    (s.resetReleased c).1.frames.sendList =
      s.frames.sendList.filter
        (fun x => !allIx.any fun i => x.isOf i && (s.tenancy i).isSome && ((s.resetReleased c).1.tenancy i).isNone) ++
      (s.resetRings c).map .release := by
  have both (x : SendItem) : (allIx.any fun i => x.isOf i && (s.tenancy i).isSome && ((s.resetReleased c).1.tenancy i).isNone) =
      ((allIx.any fun i => x.isOf i && (s.resetDetached c).letsGoAt c i) ||
        allIx.any fun i => x.isOf i && s.resetFreesAt c i) := by
    simp only [Bool.and_assoc, State.resetReleased_gone law]
    rw [Bool.eq_iff_iff]
    simp only [List.any_eq_true, Bool.or_eq_true, Bool.and_eq_true, and_or_left, exists_or]
    exact or_comm
  rw [(State.resetReleased_releases law c).sendList, State.resetDetached_sendList, List.filter_filter, State.resetRings]
  simp only [both, Bool.not_or]

theorem State.resetReleased_before {s : State} (law : s.AttachmentLaw) (c : Channel) :
    s.ResetBefore c (s.resetReleased c).1 := by
  have work := s.resetReleased_work c
  refine ⟨State.resetReleased_entries law c, fun i => State.resetReleased_others law, work.generation,
    State.resetReleased_waitList law c,
    ⟨s.resetRings c, allIx_ascending.filter _, fun i => State.mem_resetRings, State.resetReleased_sendList law c⟩, ?_,
    fun d other => ?_, work.taken, work.changes, work.serial, work.arrivals, work.station, work.line, work.config, work.time,
    work.identity, work.rstnLow, work.ports, work.choices, work.pending⟩
  · rw [State.resetReleased_channel law, if_pos rfl]
  · rw [State.resetReleased_channel law, if_neg (Ne.symm other)]

/-! ### The examinations of a channel reset (R21, R71) -/

theorem Tenancy.resetTouches_iff (u : Tenancy) : u.resetTouches = true ↔ u.ResetChanges := by
  unfold Tenancy.resetTouches Tenancy.ResetChanges
  cases hs : u.state with
  | claiming phase lost => cases phase <;> simp
  | _ => simp

theorem State.mem_resetHandOns {s : State} (law : s.AttachmentLaw) {c : Channel} {g : Tag} :
    g ∈ (s.resetReleased c).2 ↔ ∃ i u, s.tenancy i = some u ∧ u.owner = c ∧ u.tag = g ∧ s.ResetHandsOn c i u := by
  rw [(State.resetReleased_releases law c).handOns]
  constructor
  · rintro ⟨i, v, -, hv, owner, held, on, handsOn⟩
    obtain ⟨u, hu, holds, ⟨rfl, o⟩ | ⟨rfl, o⟩⟩ := State.resetDetached_held hv held
    · exact absurd owner o
    · exact ⟨i, u, hu, o, on, (State.resetDetached_passing holds).1.1 handsOn⟩
  · rintro ⟨i, u, hu, owner, on, handsOn⟩
    have held : u.isHeld = true := by
      obtain ⟨remaining, hs⟩ := handsOn.1
      exact Tenancy.isHeld_iff.2 ⟨remaining, false, hs⟩
    exact ⟨i, _, mem_allIx i, (State.resetDetached_entry hu).2.2.2 owner (.inl held), owner, held, on,
      (State.resetDetached_passing held).1.2 handsOn⟩

theorem State.channelReset_examines {s : State} (law : s.AttachmentLaw) (c : Channel) :
    s.ResetExamines c (s.channelReset c) := by
  refine ⟨(s.resetReleased c).1, s.tagsOf fun u => u.owner == c && u.resetTouches, (s.resetReleased c).2,
    State.resetReleased_before law c, s.tagsOf_ascending _, fun g => ?_, fun g => State.mem_resetHandOns law, ?_⟩
  · rw [State.mem_tagsOf]
    refine exists_congr fun i => exists_congr fun u => and_congr_right fun _ => ?_
    rw [Bool.and_eq_true, beq_iff_eq, Tenancy.resetTouches_iff]
    exact and_left_comm
  · simp only [State.channelReset_eq, State.examineTags, State.examineAfter, List.contains_iff_mem]

/-! ### What is left after the examinations (R71, R142, R160) -/

/-- What is left of the channel's entries before the examinations: claims in flight and entries RELEASING, all detached. -/
theorem State.resetReleased_own {s : State} (law : s.AttachmentLaw) {c : Channel} {i : EntryIx} {v : Tenancy}
    (h : (s.resetReleased c).1.tenancy i = some v) (owner : v.owner = c) : v.attached = false ∧ v.deferred = none ∧
      ((∃ phase, v.state = .releasing phase) ∨ ∃ serial circuit lost, v.state = .claiming (.inFlight serial circuit) lost) := by
  obtain ⟨u, hu, o, -⟩ := (s.resetReleased_work c).fixed i v h
  have entry := State.resetReleased_entries law c i u hu (o.symm.trans owner)
  have follows := law.1 i u hu
  cases hs : u.state with
  | claiming phase lost =>
    cases phase with
    | queued => simp [hs, h] at entry
    | inFlight serial circuit =>
      simp only [hs, h, Option.some.injEq] at entry
      subst entry
      exact ⟨rfl, rfl, .inr ⟨serial, circuit, lost, rfl⟩⟩
  | releasing phase =>
    simp only [hs, h, Option.some.injEq] at entry
    subst entry
    simp only [Tenancy.AttachmentFollows, hs] at follows
    exact ⟨follows, rfl, .inl ⟨phase, rfl⟩⟩
  | held remaining demand =>
    simp only [hs] at entry
    by_cases toRing : s.ResetToTheRing c i u
    · obtain rfl := Option.some.inj (h.symm.trans (entry.1 toRing))
      exact ⟨rfl, rfl, .inl ⟨_, rfl⟩⟩
    · have := h.symm.trans (entry.2 toRing)
      cases this
  | _ => simp [hs, h] at entry

theorem State.resetReleased_own_idle {s : State} (law : s.AttachmentLaw) {c : Channel} {i : EntryIx} {v : Tenancy}
    (h : (s.resetReleased c).1.tenancy i = some v) (owner : v.owner = c) : v.isQueued = false := by
  obtain ⟨-, -, ⟨phase, hs⟩ | ⟨serial, circuit, lost, hs⟩⟩ := State.resetReleased_own law h owner <;>
    simp [Tenancy.isQueued, EntryState.name, hs]

theorem State.channelReset_treats (s : State) (c : Channel) : (s.resetReleased c).1.TreatsWaiters (s.channelReset c) := by
  rw [State.channelReset_eq]
  exact State.examineTags_treats _ _ _

/-- The examinations leave the entries of the channel as they are. -/
theorem State.channelReset_own {s : State} (law : s.AttachmentLaw) {c : Channel} {i : EntryIx} {u : Tenancy}
    (hu : s.tenancy i = some u) (owner : u.owner = c) :
    (s.channelReset c).tenancy i = (s.resetReleased c).1.tenancy i := by
  have treats := s.channelReset_treats c
  cases h : (s.resetReleased c).1.tenancy i with
  | none => exact treats.work.free i h
  | some v =>
    obtain ⟨w, hw, o, -⟩ := (s.resetReleased_work c).fixed i v h
    obtain rfl := Option.some.inj (hu.symm.trans hw)
    exact treats.others i v h (State.resetReleased_own_idle law h (o.trans owner))

theorem State.channelReset_cleared {s : State} (law : s.AttachmentLaw) (c : Channel) : (s.channelReset c).ChannelCleared c := by
  have channel : (s.channelReset c).channel c = { s.channel c with queue := [], deferral := [] } := by
    rw [(s.channelReset_treats c).channels c fun i v hv queued owner => ?_, State.resetReleased_channel law, if_pos rfl]
    rw [State.resetReleased_own_idle law hv owner] at queued; cases queued
  refine ⟨by rw [channel], by rw [channel], fun i v hv owner => ?_⟩
  obtain ⟨u, hu, o, -⟩ := (s.channelReset_work c).fixed i v hv
  rw [State.channelReset_own law hu (o.symm.trans owner)] at hv
  exact State.resetReleased_own law hv owner

theorem State.channelReset_actsOn {s : State} (law : s.AttachmentLaw) (c : Channel) : s.ResetActsOn c (s.channelReset c) := by
  have work := s.channelReset_work c
  refine ⟨fun i u hu owner => ?_, fun i u hu other idle => ?_, work.generation, fun d => (work.reads d).2.1, work.station,
    work.line, work.config, work.serial⟩
  · rw [State.channelReset_own law hu owner]
    exact State.resetReleased_entries law c i u hu owner
  · refine (s.channelReset_treats c).others i u ?_ ?_
    · rw [State.resetReleased_others law fun w hw => ?_, hu]
      obtain rfl := Option.some.inj (hu.symm.trans hw)
      exact other
    · rw [← Bool.not_eq_true, Tenancy.isQueued_iff]
      exact idle

/-! ### The commands that reset a channel (R160, R161) -/

/-- The state differs in the result slots of the channels alone. -/
structure State.SlotsDiffer (s t : State) : Prop where
  lease : t.lease = s.lease
  frames : t.frames = s.frames
  station : t.station = s.station
  line : t.line = s.line
  config : t.config = s.config
  channels : ∀ d, (t.channel d).queue = (s.channel d).queue ∧ (t.channel d).deferral = (s.channel d).deferral ∧
    (t.channel d).portError = (s.channel d).portError

theorem State.answer_slotsDiffer (s : State) (ch : Channel) (code echo : Byte) (status : Status) (values : ResultValues) :
    s.SlotsDiffer (s.answer ch code echo status values) := by
  refine ⟨rfl, rfl, rfl, rfl, rfl, fun d => ?_⟩
  rw [State.answer, State.modifyChannel_channel]
  split
  · next e => subst e; exact ⟨rfl, rfl, rfl⟩
  · exact ⟨rfl, rfl, rfl⟩

theorem State.answer_slot (s : State) (ch : Channel) (code echo : Byte) (status : Status) (values : ResultValues)
    (d : Channel) : ((s.answer ch code echo status values).channel d).slot =
      if ch = d then some ⟨code, echo, status, values⟩ else (s.channel d).slot := by
  rw [State.answer, State.modifyChannel_channel]
  split <;> rfl

theorem State.SlotsDiffer.trans {s t u : State} (h : s.SlotsDiffer t) (k : t.SlotsDiffer u) : s.SlotsDiffer u := by
  refine ⟨k.lease.trans h.lease, k.frames.trans h.frames, k.station.trans h.station, k.line.trans h.line,
    k.config.trans h.config, fun d => ?_⟩
  obtain ⟨q, f, p⟩ := h.channels d
  obtain ⟨q', f', p'⟩ := k.channels d
  exact ⟨q'.trans q, f'.trans f, p'.trans p⟩

theorem State.SlotsDiffer.tenancy {s t : State} (h : s.SlotsDiffer t) (i : EntryIx) : t.tenancy i = s.tenancy i := by
  simp only [State.tenancy, State.entry, h.lease]

theorem State.SlotsDiffer.nonFree {s t : State} (h : s.SlotsDiffer t) (c : Channel) : t.nonFree c = s.nonFree c := by
  unfold State.nonFree State.entryMeets
  simp only [h.tenancy]

theorem State.ChannelCleared.slots {s t : State} {c : Channel} (h : s.ChannelCleared c) (k : s.SlotsDiffer t) :
    t.ChannelCleared c := by
  obtain ⟨queue, deferral, left⟩ := h
  obtain ⟨q, f, -⟩ := k.channels c
  exact ⟨q.trans queue, f.trans deferral, fun i u hu => left i u (k.tenancy i ▸ hu)⟩

theorem State.ResetActsOn.slots {b s t : State} {c : Channel} (h : b.ResetActsOn c s) (k : s.SlotsDiffer t) :
    b.ResetActsOn c t := by
  obtain ⟨entries, others, generations, errors, station, line, config, serial⟩ := h
  refine ⟨fun i u hu owner => ?_, fun i u hu other idle => ?_, fun i => ?_, fun d => ?_, k.station.trans station,
    k.line.trans line, k.config.trans config, by rw [k.frames, serial]⟩
  · rw [k.tenancy]; exact entries i u hu owner
  · rw [k.tenancy]; exact others i u hu other idle
  · rw [State.entry, k.lease]; exact generations i
  · exact (k.channels d).2.2.trans (errors d)

theorem State.channelReset_slot (s : State) (c d : Channel) : ((s.channelReset c).channel d).slot = (s.channel d).slot :=
  ((s.channelReset_work c).reads d).1

theorem State.handOn_nil {s : State} {tag : Tag} (h : s.waitList tag = []) : s.handOn tag = s := by
  simp only [State.handOn, h]

/-- Settles O33: the block before the examinations is given in closed form (the slots emptied, the entries freed, detached and
released), and the examinations touch no entry that does not wait. -/
theorem channelResetClearsTheChannel : Obligations.ChannelResetClearsTheChannel := by
  unfold Obligations.ChannelResetClearsTheChannel
  refine ⟨fun s ch echo target high law => ⟨?_, fun n named => ?_, fun above => ?_⟩, fun x tag =>
    ⟨State.handOn_nil, fun j rest w list => State.handOn_eq list⟩⟩
  · have slots (values : ResultValues) := (s.channelReset ch).answer_slotsDiffer ch 0x16 echo .ok values
    refine ⟨(s.channelReset ch).answer ch 0x16 echo .ok (resetValues s (s.channelReset ch) ch ch), s.channelReset ch,
      congrArg next (State.atPort_high high _), (State.channelReset_cleared law ch).slots (slots _),
      (State.channelReset_actsOn law ch).slots (slots _), State.channelReset_examines law ch, ?_, ?_, fun d other => ?_⟩
    · rw [(slots _).nonFree]; rfl
    · rw [(slots _).nonFree, State.answer_slot, if_pos rfl]; rfl
    · rw [State.answer_slot, if_neg (Ne.symm other), State.channelReset_slot]
  · have slots (values : ResultValues) := ((s.channelReset n).answer_slotsDiffer 0 0x26 echo .ok values).trans
      (State.answer_slotsDiffer _ n 0x26 echo .ok values)
    have run : exec (.resetChannelN 0 echo target) s = next (((s.channelReset n).answer 0 0x26 echo .ok
        (resetValues s (s.channelReset n) n 0)).answer n 0x26 echo .ok (resetValues s (s.channelReset n) n 0)) := by
      refine congrArg next ((State.atPort_high high _).trans ?_)
      simp only [channelOfByte_some named, if_pos]
    refine ⟨_, s.channelReset n, run, (State.channelReset_cleared law n).slots (slots _),
      (State.channelReset_actsOn law n).slots (slots _), State.channelReset_examines law n, ?_, ?_, ?_, fun d other other' => ?_⟩
    · rw [(slots _).nonFree]; rfl
    · rw [(slots _).nonFree, State.answer_slot, State.answer_slot, if_pos rfl, ite_self]; rfl
    · rw [(slots _).nonFree, State.answer_slot, if_pos rfl]; rfl
    · rw [State.answer_slot, if_neg (Ne.symm other'), State.answer_slot, if_neg (Ne.symm other), State.channelReset_slot]
  · refine congrArg next ((State.atPort_high high _).trans ?_)
    simp only [channelOfByte_none above, if_pos]

end Sys2Proof.Machine

namespace Sys2Proof.Machine

/-! ### The frames that wait to be originated (R26, R63, R86, R109) -/

theorem SendItem.isOf_iff {i : EntryIx} {x : SendItem} : x.isOf i = true ↔ x = .claim i ∨ x = .release i := by
  cases x with
  | claim j => simpa [SendItem.isOf] using eq_comm
  | release j => simpa [SendItem.isOf] using eq_comm
  | census => simp [SendItem.isOf]

/-- The item of an entry whose frame is QUEUED. -/
def Tenancy.owed (i : EntryIx) (t : Tenancy) : Option SendItem :=
  match t.state with
  | .claiming .queued _ => some (.claim i)
  | .releasing .queued => some (.release i)
  | .claiming (.inFlight _ _) _ | .releasing (.inFlight _ _) | .queuedLocal | .backoff _ | .held _ _ | .closing => none

theorem Tenancy.owed_claim {i j : EntryIx} {t : Tenancy} :
    t.owed i = some (.claim j) ↔ i = j ∧ ∃ lost, t.state = .claiming .queued lost := by
  unfold Tenancy.owed; split <;> simp_all

theorem Tenancy.owed_release {i j : EntryIx} {t : Tenancy} :
    t.owed i = some (.release j) ↔ i = j ∧ t.state = .releasing .queued := by
  unfold Tenancy.owed; split <;> simp_all

theorem Tenancy.isOf_of_owed {i : EntryIx} {t : Tenancy} {x : SendItem} (h : t.owed i = some x) : x.isOf i = true := by
  unfold Tenancy.owed at h
  split at h <;> cases h <;> simp [SendItem.isOf]

/-- A frame of the block waits for its origination under this item. -/
def State.Owes (s : State) (x : SendItem) : Prop :=
  (∃ i t, s.tenancy i = some t ∧ t.owed i = some x) ∨ (x = .census ∧ s.station.census = .queued)

theorem State.owes_of_entry {s : State} {i : EntryIx} {x : SendItem} (h : x.isOf i = true) :
    s.Owes x ↔ ∃ t, s.tenancy i = some t ∧ t.owed i = some x := by
  refine ⟨?_, fun ⟨t, ht, o⟩ => .inl ⟨i, t, ht, o⟩⟩
  rintro (⟨j, t, ht, o⟩ | ⟨rfl, -⟩)
  · obtain rfl : i = j := by
      rcases SendItem.isOf_iff.1 h with rfl | rfl
      · exact (Tenancy.owed_claim.1 o).1.symm
      · exact (Tenancy.owed_release.1 o).1.symm
    exact ⟨t, ht, o⟩
  · cases h

theorem State.owes_census {s : State} : s.Owes .census ↔ s.station.census = .queued := by
  refine ⟨?_, fun h => .inr ⟨rfl, h⟩⟩
  rintro (⟨i, t, -, o⟩ | ⟨-, h⟩)
  · have := Tenancy.isOf_of_owed o
    cases this
  · exact h

theorem State.sendListExact_iff (s : State) :
    s.SendListExact ↔ s.frames.sendList.Nodup ∧ ∀ x, x ∈ s.frames.sendList ↔ s.Owes x := by
  have claim (i : EntryIx) : s.Owes (.claim i) ↔ ∃ t lost, s.tenancy i = some t ∧ t.state = .claiming .queued lost := by
    rw [State.owes_of_entry (SendItem.isOf_iff.2 (.inl rfl))]
    simp [Tenancy.owed_claim]
  have release (i : EntryIx) : s.Owes (.release i) ↔ ∃ t, s.tenancy i = some t ∧ t.state = .releasing .queued := by
    rw [State.owes_of_entry (SendItem.isOf_iff.2 (.inr rfl))]
    simp [Tenancy.owed_release]
  refine and_congr_right fun _ => ⟨fun ⟨c, r, k⟩ x => ?_, fun h => ⟨fun i => ?_, fun i => ?_, ?_⟩⟩
  · cases x with
    | claim i => rw [c, claim]
    | release i => rw [r, release]
    | census => rw [k, State.owes_census]
  · rw [h, claim]
  · rw [h, release]
  · rw [h, State.owes_census]

/-- What an event must do to keep the send list exact. -/
def State.SendsKept (s t : State) : Prop := s.SendListExact → t.SendListExact

theorem State.SendsKept.refl (s : State) : s.SendsKept s := id

theorem State.SendsKept.trans {s t u : State} (h : s.SendsKept t) (k : t.SendsKept u) : s.SendsKept u := k ∘ h

theorem State.sendsKept_of_owes {s t : State} (list : t.frames.sendList = s.frames.sendList)
    (owes : ∀ x, t.Owes x ↔ s.Owes x) : s.SendsKept t := fun e => by
  rw [State.sendListExact_iff] at e ⊢
  simpa only [list, owes] using e

/-- Entries that owe what they owed, with the send list and the census as before. -/
theorem State.sendsKept_of_entries {s t : State} (list : t.frames.sendList = s.frames.sendList)
    (census : t.station.census = .queued ↔ s.station.census = .queued)
    (entries : ∀ i, (t.tenancy i).bind (Tenancy.owed i) = (s.tenancy i).bind (Tenancy.owed i)) : s.SendsKept t := by
  have owed (u : State) (i : EntryIx) (x : SendItem) :
      (∃ v, u.tenancy i = some v ∧ v.owed i = some x) ↔ (u.tenancy i).bind (Tenancy.owed i) = some x := by
    rw [Option.bind_eq_some_iff]
  exact State.sendsKept_of_owes list fun x => by simp only [State.Owes, owed, census, entries]

/-- An update of other parts of the block. -/
theorem State.sendsKept_of_blocks {s t : State} (list : t.frames.sendList = s.frames.sendList)
    (entries : t.lease.entries = s.lease.entries) (census : t.station.census = s.station.census) : s.SendsKept t :=
  State.sendsKept_of_entries list (by rw [census]) fun i => by simp only [State.tenancy, State.entry, entries]

/-! ### One entry at a time -/

/-- The items of an entry that turns are to be looked at, those of the others and of the census stay. -/
theorem State.Turns.sends {s t : State} {i : EntryIx} {v : Tenancy} {x : Option Tenancy} (h : s.Turns t i v x)
    (census : t.station.census = s.station.census) (nodup : s.frames.sendList.Nodup → t.frames.sendList.Nodup)
    (others : ∀ y, y.isOf i = false → (y ∈ t.frames.sendList ↔ y ∈ s.frames.sendList))
    (here : (∀ y, y.isOf i = true → (y ∈ s.frames.sendList ↔ v.owed i = some y)) →
      ∀ y, y.isOf i = true → (y ∈ t.frames.sendList ↔ x.bind (Tenancy.owed i) = some y)) : s.SendsKept t := fun e => by
  rw [State.sendListExact_iff] at e ⊢
  obtain ⟨once, listed⟩ := e
  refine ⟨nodup once, fun y => ?_⟩
  cases mine : y.isOf i with
  | true =>
    have before (z : SendItem) (hz : z.isOf i = true) : z ∈ s.frames.sendList ↔ v.owed i = some z := by
      rw [listed, State.owes_of_entry hz]; simp [h.before]
    rw [here before y mine, State.owes_of_entry mine, h.after, Option.bind_eq_some_iff]
  | false =>
    rw [others y mine, listed]
    cases y with
    | claim j =>
      have ne : j ≠ i := fun e => by simp [SendItem.isOf, e] at mine
      rw [State.owes_of_entry (i := j) (by simp [SendItem.isOf]), State.owes_of_entry (i := j) (by simp [SendItem.isOf]),
        h.others j ne]
    | release j =>
      have ne : j ≠ i := fun e => by simp [SendItem.isOf, e] at mine
      rw [State.owes_of_entry (i := j) (by simp [SendItem.isOf]), State.owes_of_entry (i := j) (by simp [SendItem.isOf]),
        h.others j ne]
    | census => rw [State.owes_census, State.owes_census, census]

/-- The entry owes what it owed, and the send list stays. -/
theorem State.Turns.sends_stay {s t : State} {i : EntryIx} {v : Tenancy} {x : Option Tenancy} (h : s.Turns t i v x)
    (list : t.frames.sendList = s.frames.sendList) (census : t.station.census = s.station.census)
    (owed : x.bind (Tenancy.owed i) = v.owed i) : s.SendsKept t :=
  h.sends census (fun n => list ▸ n) (fun y _ => by rw [list]) fun before y mine => by rw [list, before y mine, owed]

/-- The entry owes nothing, and its item is gone from the send list. -/
theorem State.Turns.sends_end {s t : State} {i : EntryIx} {v : Tenancy} {x : Option Tenancy} (h : s.Turns t i v x)
    (list : t.frames.sendList = s.frames.sendList.filter fun y => !y.isOf i)
    (census : t.station.census = s.station.census) (owed : x.bind (Tenancy.owed i) = none) : s.SendsKept t :=
  h.sends census (fun n => list ▸ n.filter _) (fun y other => by simp [list, other]) fun _ y mine => by
    simp [list, mine, owed]

/-- The entry owed nothing, and the item that it owes now has joined the tail (R26, R63, R87). -/
theorem State.Turns.sends_join {s t : State} {i : EntryIx} {v u : Tenancy} {item : SendItem} (h : s.Turns t i v (some u))
    (list : t.frames.sendList = s.frames.sendList ++ [item]) (census : t.station.census = s.station.census)
    (before : v.owed i = none) (owed : u.owed i = some item) : s.SendsKept t := fun e => by
  have mine := Tenancy.isOf_of_owed owed
  have absent : item ∉ s.frames.sendList := fun m => by
    have owes := (((s.sendListExact_iff).1 e).2 item).1 m
    rw [State.owes_of_entry mine] at owes
    simp [h.before, before] at owes
  refine h.sends census (fun n => ?_) (fun y other => ?_) (fun listed y hy => ?_) e
  · rw [list]; exact n.append (List.nodup_singleton _) (by simpa using absent)
  · have ne : y ≠ item := fun e => by rw [e, mine] at other; cases other
    simp [list, ne]
  · have gone : y ∉ s.frames.sendList := by rw [listed y hy, before]; simp
    simp [list, gone, owed, eq_comm]

/-- The item that the entry owed has been taken from the send list, and it owes nothing now (R87). -/
theorem State.Turns.sends_taken {s t : State} {i : EntryIx} {v u : Tenancy} {item : SendItem} (h : s.Turns t i v (some u))
    (list : t.frames.sendList = s.frames.sendList.erase item) (census : t.station.census = s.station.census)
    (before : v.owed i = some item) (owed : u.owed i = none) : s.SendsKept t := fun e => by
  have once := ((s.sendListExact_iff).1 e).1
  refine h.sends census (fun n => list ▸ n.erase _) (fun y other => ?_) (fun listed y hy => ?_) e
  · have ne : y ≠ item := fun e => by rw [e, Tenancy.isOf_of_owed before] at other; cases other
    rw [list, once.mem_erase_iff]; simp [ne]
  · rw [list, once.mem_erase_iff, listed y hy, before]
    simp [owed, eq_comm]

/-- The items of the entries stay, that of the census is to be looked at. -/
theorem State.sendsKept_of_census {s t : State} (tenancies : ∀ i, t.tenancy i = s.tenancy i)
    (nodup : s.SendListExact → t.frames.sendList.Nodup)
    (others : ∀ x, x ≠ .census → (x ∈ t.frames.sendList ↔ x ∈ s.frames.sendList))
    (here : s.SendListExact → (.census ∈ t.frames.sendList ↔ t.station.census = .queued)) : s.SendsKept t := fun e => by
  have listed := nodup e
  have census := here e
  refine ⟨listed, fun i => ?_, fun i => ?_, census⟩
  · rw [others _ (by simp), e.2.1 i, tenancies]
  · rw [others _ (by simp), e.2.2.1 i, tenancies]

end Sys2Proof.Machine

namespace Sys2Proof.Machine

/-! ### What the Lease Table's operations do to the send list (R9, R26, R63, R87) -/

theorem Tenancy.owed_of_waits {v : Tenancy} (h : v.state = .queuedLocal) (i : EntryIx) : v.owed i = none := by
  simp only [Tenancy.owed, h]

theorem Tenancy.owed_of_held {v : Tenancy} (h : v.isHeld = true) (i : EntryIx) : v.owed i = none := by
  obtain ⟨remaining, demand, hs⟩ := Tenancy.isHeld_iff.1 h
  simp only [Tenancy.owed, hs]

theorem Tenancy.owed_of_ended (v : Tenancy) (i : EntryIx) : v.ended.bind (Tenancy.owed i) = none := by
  unfold Tenancy.ended
  split <;> rfl

/-- A change of a tenancy that does not touch its frame. -/
theorem State.modifyTenancy_sends {s : State} {i : EntryIx} {v : Tenancy} (h : s.tenancy i = some v) {f : Tenancy → Tenancy}
    (owed : (f v).owed i = v.owed i) : s.SendsKept (s.modifyTenancy i f) :=
  (State.turns_modifyTenancy h f).sends_stay rfl rfl owed

theorem State.raiseLease_sends (s : State) (i : EntryIx) (kind : LeaseKind) (marks : Marks) :
    s.SendsKept (s.raiseLease i kind marks) := by
  refine State.sendsKept_of_entries (by simp) (by rw [(s.raiseLease_work i kind marks).station]) fun j => ?_
  obtain ⟨d, raised, -⟩ := s.raiseLease_tenancy i j kind marks
  rw [raised]
  cases s.tenancy j <;> rfl

theorem State.endTenancy_sends {s : State} {i : EntryIx} {v : Tenancy} (h : s.tenancy i = some v) :
    s.SendsKept (s.endTenancy i) :=
  (State.turns_endTenancy h).sends_end (s.endTenancy_sendList i) (by rw [(s.endTenancy_work i).station]) (v.owed_of_ended i)

theorem State.deny_sends (s : State) (i : EntryIx) (cause : DenyCause) (objector : Option StationNo) :
    s.SendsKept (s.deny i cause objector) := by
  unfold State.deny
  split
  · exact .refl s
  · next v h =>
    obtain ⟨d, raised, -⟩ := s.raiseLease_tenancy i i (.denied cause objector v.attempts) {}
    exact (s.raiseLease_sends _ _ _).trans (State.endTenancy_sends (raised.trans (by rw [h]; rfl)))

theorem State.leaveWaiting_sends (s : State) (i : EntryIx) : s.SendsKept (s.leaveWaiting i) :=
  State.sendsKept_of_blocks rfl rfl rfl

theorem State.detach_sends (s : State) (i : EntryIx) : s.SendsKept (s.detach i) := by
  cases h : s.tenancy i with
  | none => rw [State.detach, State.modifyTenancy_of_none h]; exact .refl s
  | some v => exact State.modifyTenancy_sends h rfl

theorem State.grant_sends {s : State} {i : EntryIx} {v : Tenancy} (h : s.tenancy i = some v) (owed : v.owed i = none)
    (handedOn : Bool) : s.SendsKept (s.grant i handedOn) := by
  rw [State.grant, h]
  exact (State.modifyTenancy_sends (f := Tenancy.enterHeld) h owed.symm).trans (State.raiseLease_sends _ _ _ _)

theorem State.enterClaiming_sends {s : State} {i : EntryIx} {v : Tenancy} (h : s.tenancy i = some v)
    (owed : v.owed i = none) : s.SendsKept (s.enterClaiming i) :=
  ((State.turns_modifyTenancy h ({ · with state := .claiming .queued false })).congr (u := s.enterClaiming i)
    (fun _ => rfl) rfl).sends_join rfl rfl owed rfl

theorem State.toTheRing_sends {s : State} {i : EntryIx} {v : Tenancy} (h : s.tenancy i = some v) (owed : v.owed i = none) :
    s.SendsKept (s.toTheRing i) :=
  ((State.turns_modifyTenancy h ({ · with attached := false, state := .releasing .queued })).congr (u := s.toTheRing i)
    (fun _ => rfl) rfl).sends_join rfl rfl owed rfl

/-! ### Examinations and the release procedure (R21 to R23, R57 to R60) -/

theorem State.treatHead_sends {s : State} {i : EntryIx} {v : Tenancy} (h : s.tenancy i = some v)
    (waits : v.state = .queuedLocal) (tag : Tag) (m : Mode) : s.SendsKept (s.treatHead i tag m).1 := by
  have owed := Tenancy.owed_of_waits waits i
  unfold State.treatHead
  split
  · exact .refl s
  · exact .refl s
  · exact (s.leaveWaiting_sends i).trans (State.grant_sends (s := s.leaveWaiting i) h owed false)
  · split
    · exact (s.leaveWaiting_sends i).trans (State.enterClaiming_sends (s := s.leaveWaiting i) h owed)
    · exact (s.leaveWaiting_sends i).trans (State.deny_sends _ _ _ _)

theorem State.examineLoop_sends (tag : Tag) (n : Nat) (s : State) : s.SendsKept (s.examineLoop tag n) := by
  induction n generalizing s with
  | zero => exact .refl s
  | succ n ih =>
    cases hw : s.waitList tag with
    | nil => simp only [State.examineLoop, hw]; exact .refl s
    | cons i rest =>
      obtain ⟨v, hv, -, waits⟩ := State.waitList_head hw
      simp only [State.examineLoop, hw, hv]
      split
      · exact (State.treatHead_sends hv waits _ _).trans (ih _)
      · exact State.treatHead_sends hv waits _ _

theorem State.examine_sends (s : State) (tag : Tag) : s.SendsKept (s.examine tag) := State.examineLoop_sends _ _ _

theorem State.handOn_sends (s : State) (tag : Tag) : s.SendsKept (s.handOn tag) := by
  unfold State.handOn
  split
  · exact .refl s
  · next i _ hw =>
    obtain ⟨v, hv, -, waits⟩ := State.waitList_head hw
    exact (s.leaveWaiting_sends i).trans
      (State.grant_sends (s := s.leaveWaiting i) hv (Tenancy.owed_of_waits waits i) true)

theorem State.examineAfter_sends (s : State) (tag : Tag) (handOn : Bool) : s.SendsKept (s.examineAfter tag handOn) := by
  unfold State.examineAfter
  split
  · exact (s.handOn_sends tag).trans (State.examine_sends _ _)
  · exact s.examine_sends tag

theorem State.foldl_sends {α : Type} {f : State → α → State} (hf : ∀ (s : State) a, s.SendsKept (f s a)) (l : List α)
    (s : State) : s.SendsKept (l.foldl f s) := by
  induction l generalizing s with
  | nil => exact .refl s
  | cons a l ih => exact (hf s a).trans (ih _)

theorem State.examineTags_sends (s : State) (tags handOns : List Tag) : s.SendsKept (s.examineTags tags handOns) :=
  State.foldl_sends (fun s tag => s.examineAfter_sends tag _) tags s

theorem State.leaveHeld_sends (s : State) (i : EntryIx) : s.SendsKept (s.leaveHeld i).1 := by
  have ended {v : Tenancy} (h : s.tenancy i = some v) : s.SendsKept ((s.detach i).endTenancy i) :=
    (s.detach_sends i).trans (State.endTenancy_sends (State.detach_tenancy h))
  rcases s.leaveHeld_cases i with e | ⟨v, h, held, e | ⟨-, e | e⟩⟩
  · rw [e]; exact .refl s
  · rw [e]; exact ended h
  · rw [e]; exact ended h
  · rw [e]; exact State.toTheRing_sends h (Tenancy.owed_of_held held i)

theorem State.releaseHeld_sends (s : State) (i : EntryIx) (tag : Tag) : s.SendsKept (s.releaseHeld i tag) :=
  (s.leaveHeld_sends i).trans (State.examineAfter_sends _ _ _)

/-! ### Failed attempts and returns (R34 to R43, R64, R65) -/

theorem State.endAndExamine_sends {s : State} {i : EntryIx} {v : Tenancy} (h : s.tenancy i = some v) (tag : Tag) :
    s.SendsKept (s.endAndExamine i tag) := (State.endTenancy_sends h).trans (State.examine_sends _ _)

theorem State.failAttempt_sends {s : State} {i : EntryIx} {v : Tenancy} (h : s.tenancy i = some v) (owed : v.owed i = none)
    (cause : FailCause) (objector : Option StationNo) : s.SendsKept (s.failAttempt i cause objector) := by
  by_cases left : v.attempts < v.attemptLimit
  · rw [State.failAttempt_backsOff h left]
    exact State.modifyTenancy_sends h owed.symm
  · have refused : s.SendsKept
        (s.modifyTenancy i ({ · with lastRefusal := some { cause := cause, objector := objector } })) :=
      State.modifyTenancy_sends h rfl
    simp only [State.failAttempt, h, left, if_false]
    exact refused.trans ((State.deny_sends _ _ _ _).trans (State.examine_sends _ _))

theorem Tenancy.owed_of_flies {v : Tenancy} {serial : Byte} {circuit : Nat} {lost : Bool}
    (h : v.state = .claiming (.inFlight serial circuit) lost) (i : EntryIx) : v.owed i = none := by
  simp only [Tenancy.owed, h]

theorem State.claimReturn_sends (s : State) (serial : Byte) (tag : Tag) (held yield : Bool) (objector : Option StationNo) :
    s.SendsKept (s.claimReturn serial tag held yield objector) := by
  unfold State.claimReturn
  split
  · exact .refl s
  · next i found =>
    obtain ⟨v, h, flies⟩ := State.find_spec found
    obtain ⟨-, circuit, lost, claims⟩ := Tenancy.claimInFlight_spec flies
    have owed := Tenancy.owed_of_flies claims i
    simp only [h]
    split
    · exact State.endAndExamine_sends h tag
    · split
      · exact State.failAttempt_sends h owed _ _
      · split
        · exact State.failAttempt_sends h owed _ _
        · split
          · exact State.failAttempt_sends h owed _ _
          · exact (State.grant_sends h owed false).trans (State.examine_sends _ _)

theorem State.releaseReturn_sends (s : State) (serial : Byte) (tag : Tag) : s.SendsKept (s.releaseReturn serial tag) := by
  unfold State.releaseReturn
  split
  · exact .refl s
  · next found =>
    obtain ⟨v, h, -⟩ := State.find_spec found
    exact State.endAndExamine_sends h tag

/-! ### Foreign frames (R28 to R33, R41) -/

theorem Tenancy.owed_setLost (v : Tenancy) (i : EntryIx) : v.setLost.owed i = v.owed i := by
  unfold Tenancy.setLost
  split
  · next phase lost h => cases phase <;> simp only [Tenancy.owed, h]
  all_goals rfl

theorem State.setLost_sends (s : State) (i : EntryIx) : s.SendsKept (s.modifyTenancy i Tenancy.setLost) := by
  cases h : s.tenancy i with
  | none => rw [State.modifyTenancy_of_none h]; exact .refl s
  | some v => exact State.modifyTenancy_sends h (v.owed_setLost i)

theorem State.demandOn_sends (tag : Tag) (claimant : StationNo) (s : State) (i : EntryIx) :
    s.SendsKept (State.demandOn tag claimant s i) := by
  unfold State.demandOn
  split
  · exact .refl s
  · next v h =>
    split
    · next remaining demand hs =>
      have demanded : s.SendsKept
          (s.modifyTenancy i ({ · with state := .held remaining true, contendedNotified := true })) :=
        State.modifyTenancy_sends h (by simp only [Tenancy.owed, hs])
      split
      · dsimp only
        split
        · exact demanded
        · exact demanded.trans (State.raiseLease_sends _ _ _ _)
      · exact .refl s
    all_goals exact .refl s

theorem State.claimPasses_sends (s : State) (tag : Tag) (m : Mode) (standing : Nat) (claimant : StationNo) (k : ClaimMarks) :
    s.SendsKept (s.claimPasses tag m standing claimant k).1 := by
  have holder : s.SendsKept (s.objectAsHolder tag claimant k).1 := by
    unfold State.objectAsHolder
    generalize allIx = l
    exact State.foldl_sends (State.demandOn_sends tag claimant) l s
  have contest (i : EntryIx) (own : Nat) : s.SendsKept (s.contest i own standing claimant k).1 := by
    unfold State.contest
    dsimp only
    split
    · exact .refl s
    · split <;> exact s.setLost_sends i
  unfold State.claimPasses
  split
  · exact holder
  · split
    · exact holder
    · exact .refl s
  · split
    · exact contest _ _
    · exact .refl s
  · exact .refl s

/-- The entry that a search for a BACKOFF entry finds. -/
theorem State.find_backoff {s : State} {tag : Tag} {i : EntryIx} (h : allIx.find? (s.onTag tag Tenancy.isBackoff) = some i) :
    ∃ v timer, s.tenancy i = some v ∧ v.tag = tag ∧ v.state = .backoff timer := by
  obtain ⟨v, hv, on, waits⟩ := State.onTag_iff.1 (by simpa using List.find?_some h : s.onTag tag Tenancy.isBackoff i = true)
  cases hs : v.state with
  | backoff timer => exact ⟨v, timer, hv, on, hs⟩
  | _ => simp [Tenancy.isBackoff, EntryState.name, hs] at waits

theorem State.releasePasses_sends (s : State) (tag : Tag) : s.SendsKept (s.releasePasses tag) := by
  unfold State.releasePasses
  split
  · next i found =>
    obtain ⟨v, timer, h, -, hs⟩ := State.find_backoff found
    exact State.enterClaiming_sends h (by simp only [Tenancy.owed, hs])
  · exact .refl s

/-! ### A change of the station state at the Lease Table (R47, R66) -/

theorem State.changeEntry_sends (cause : DenyCause) (s : State) (i : EntryIx) : s.SendsKept (State.changeEntry cause s i) := by
  rcases s.changeEntry_cases cause i with ⟨same, -⟩ | ⟨u, r, h, -, rfl | rfl, ends⟩
  · rw [same]; exact .refl s
  · rw [ends]; exact State.endTenancy_sends h
  · obtain ⟨d, raised, -⟩ := s.raiseLease_tenancy i i (.denied cause none u.attempts) {}
    rw [ends]
    exact (s.raiseLease_sends _ _ _).trans (State.endTenancy_sends (raised.trans (by rw [h]; rfl)))

theorem State.absorbUp_sends (s : State) : s.SendsKept s.absorbUp := by
  unfold State.absorbUp
  split
  · exact State.sendsKept_of_blocks rfl rfl rfl
  · exact .refl s

theorem State.takeChange_sends (s : State) : s.SendsKept s.takeChange := by
  unfold State.takeChange
  split
  · exact .refl s
  · exact s.absorbUp_sends
  · next x rest _ _ =>
    have told : s.SendsKept ((s.setChanges rest).setTaken x) := State.sendsKept_of_blocks rfl rfl rfl
    exact told.trans ((State.foldl_sends (State.changeEntry_sends _) allIx _).trans
      ((State.examineTags_sends _ _ _).trans (State.absorbUp_sends _)))

theorem State.takeChangesN_sends (n : Nat) (s : State) : s.SendsKept (State.takeChangesN n s) := by
  induction n generalizing s with
  | zero => exact .refl s
  | succ n ih => exact s.takeChange_sends.trans (ih _)

theorem State.drawOrder_sends (s : State) : s.SendsKept s.drawOrder := by
  have counted : s.SendsKept { s with choices := s.choices + 1 } := State.sendsKept_of_blocks rfl rfl rfl
  unfold State.drawOrder
  split
  · exact counted.trans (State.takeChangesN_sends _ _)
  · exact counted

/-! ### RELEASE, READ EVENT and a channel reset (R67, R71, R139, R141) -/

theorem State.discardDeferred_sends {s : State} {i : EntryIx} {v : Tenancy} (h : s.tenancy i = some v) :
    s.SendsKept (s.discardDeferred i) :=
  (State.turns_discardDeferred h).sends_stay (by simp) (by rw [(s.discardDeferred_work i).station]) rfl

theorem State.releaseEntry_sends {s : State} {i : EntryIx} {v : Tenancy} (h : s.tenancy i = some v) (t : Tenancy) :
    s.SendsKept (s.releaseEntry i t) := by
  unfold State.releaseEntry
  split
  · dsimp only
    split
    · exact State.endAndExamine_sends h _
    · exact State.endTenancy_sends h
  · exact State.endAndExamine_sends h _
  · exact State.endAndExamine_sends h _
  · exact State.endAndExamine_sends h _
  · exact s.detach_sends i
  · exact s.releaseHeld_sends i _
  · exact .refl s

theorem State.moveIn_sends (c : Channel) (l : List DeferralItem) (s : State) : s.SendsKept (State.moveIn c l s) := by
  induction l with
  | nil => exact State.sendsKept_of_blocks rfl rfl rfl
  | cons x rest ih =>
    cases x with
    | marker set => exact State.sendsKept_of_blocks rfl rfl rfl
    | entry i =>
      unfold State.moveIn
      split
      · next n v _ h =>
        have turns := (State.turns_modifyTenancy h ({ · with deferred := none })).congr
          (u := (s.modifyChannel c fun x => { x with deferral := rest, queue := x.queue ++ [.lease n] }).modifyTenancy i
            ({ · with deferred := none })) (fun _ => rfl) rfl
        have moved := turns.sends_stay rfl rfl rfl
        dsimp only
        split
        · exact moved.trans (State.endAndExamine_sends turns.after _)
        · exact moved
      · exact ih

theorem State.readEvent_sends (s : State) (c : Channel) : s.SendsKept (s.readEvent c) := by
  unfold State.readEvent
  split
  · exact State.sendsKept_of_blocks rfl rfl rfl
  · refine State.SendsKept.trans ?_ (State.moveIn_sends _ _ _)
    exact State.sendsKept_of_blocks rfl rfl rfl

theorem State.resetEvents_sends (s : State) (c : Channel) : s.SendsKept (s.resetEvents c) :=
  State.sendsKept_of_entries rfl .rfl fun i => by
    rw [State.resetEvents_tenancy]
    cases s.tenancy i with
    | none => rfl
    | some v => simp only [Option.map_some, Option.bind_some]; split <;> rfl

theorem State.resetFree_sends (c : Channel) (s : State) (i : EntryIx) : s.SendsKept (State.resetFree c s i) := by
  unfold State.resetFree
  split
  · next meets =>
    obtain ⟨v, h, -⟩ := State.entryMeets_iff.1 meets
    exact State.endTenancy_sends h
  · exact .refl s

theorem State.resetDetach_sends (c : Channel) (s : State) (i : EntryIx) : s.SendsKept (State.resetDetach c s i) := by
  unfold State.resetDetach
  split
  · exact s.detach_sends i
  · exact .refl s

theorem State.resetRelease_sends (c : Channel) (r : State × List Tag) (i : EntryIx) :
    r.1.SendsKept (State.resetRelease c r i).1 := by
  unfold State.resetRelease
  split
  · split
    · exact r.1.leaveHeld_sends i
    · exact .refl _
  · exact .refl _

theorem State.resetReleases_sends (c : Channel) (l : List EntryIx) (s : State) (tags : List Tag) :
    s.SendsKept (l.foldl (State.resetRelease c) (s, tags)).1 := by
  induction l generalizing s tags with
  | nil => exact .refl _
  | cons i l ih => exact (State.resetRelease_sends c (s, tags) i).trans (ih _ _)

theorem State.channelReset_sends (s : State) (c : Channel) : s.SendsKept (s.channelReset c) := by
  have freed : s.SendsKept (s.resetFreed c) :=
    (s.resetEvents_sends c).trans (State.foldl_sends (State.resetFree_sends c) allIx _)
  have detached : s.SendsKept (s.resetDetached c) := freed.trans (State.foldl_sends (State.resetDetach_sends c) allIx _)
  have released : s.SendsKept (s.resetReleased c).1 := by
    rw [State.resetReleased]
    exact detached.trans (State.resetReleases_sends c allIx _ [])
  rw [State.channelReset_eq]
  exact released.trans (State.examineTags_sends _ _ _)

end Sys2Proof.Machine

namespace Sys2Proof.Machine

/-! ### What the Station Controller does to the send list (R109, R120) -/

/-- A change of the station record that leaves the census QUEUED or not QUEUED, as it was. -/
theorem State.modifyStation_sends (s : State) (f : StationRecord → StationRecord)
    (census : (f s.station).census = .queued ↔ s.station.census = .queued) :
    s.SendsKept (s.modifyStation f) := State.sendsKept_of_entries rfl census fun _ => rfl

theorem State.modifyLine_sends (s : State) (f : LineInterface → LineInterface) : s.SendsKept (s.modifyLine f) :=
  State.sendsKept_of_blocks rfl rfl rfl

theorem State.modifyChannel_sends (s : State) (c : Channel) (f : ChannelState → ChannelState) :
    s.SendsKept (s.modifyChannel c f) := State.sendsKept_of_blocks rfl rfl rfl

/-- A change of the Frame Processor beside the send list. -/
theorem State.modifyFrames_sends (s : State) (f : FrameProcessor → FrameProcessor)
    (list : (f s.frames).sendList = s.frames.sendList) : s.SendsKept (s.modifyFrames f) :=
  State.sendsKept_of_blocks list rfl rfl

theorem State.setTaken_sends (s : State) (x : StationState) : s.SendsKept (s.setTaken x) :=
  State.sendsKept_of_blocks rfl rfl rfl

theorem State.answer_sends (s : State) (ch : Channel) (code echo : Byte) (status : Status) (values : ResultValues) :
    s.SendsKept (s.answer ch code echo status values) := s.modifyChannel_sends _ _

theorem State.raiseStation_sends (s : State) (c : RoutingClass) (r : EventRecord) : s.SendsKept (s.raiseStation c r) :=
  s.modifyChannel_sends _ _

theorem State.tellLease_sends (s : State) (x : StationState) : s.SendsKept (s.tellLease x) := by
  unfold State.tellLease
  split <;> exact State.sendsKept_of_blocks rfl rfl rfl

theorem Census.abandon_queued (x : Census) : x.abandon = .queued ↔ x = .queued := by
  cases x <;> simp [Census.abandon]

/-- The census item joins the tail with the census QUEUED (R109). -/
theorem State.addCensus_sends (s : State) : s.SendsKept s.addCensus := by
  by_cases idle : s.station.census = .none
  · have absent (e : s.SendListExact) : .census ∉ s.frames.sendList := fun m => by
      have queued := e.2.2.2.1 m
      rw [idle] at queued; cases queued
    rw [State.addCensus_none idle]
    refine State.sendsKept_of_census (fun _ => rfl)
      (fun e => e.1.append (List.nodup_singleton _) (by simpa using absent e)) (fun x ne => ?_) (fun _ => ?_)
    · simp [State.queuesCensus, State.setSendList, ne]
    · simp [State.queuesCensus, State.setSendList, State.modifyStation]
  · rw [State.addCensus_not idle]; exact .refl s

theorem State.enterDown_sends (s : State) (cause : RingCause) : s.SendsKept (s.enterDown cause) := by
  unfold State.enterDown
  split
  · exact (s.modifyStation_sends _ s.station.census.abandon_queued).trans
      ((State.raiseStation_sends _ _ _).trans (State.tellLease_sends _ _))
  · exact .refl s

/-- A census item leaves the send list with the census (R120). -/
theorem State.enterHalted_sends (s : State) : s.SendsKept s.enterHalted := by
  unfold State.enterHalted
  split
  · dsimp only
    refine State.SendsKept.trans ?_ ((State.raiseStation_sends _ _ _).trans (State.tellLease_sends _ _))
    refine State.sendsKept_of_census (fun _ => rfl) (fun e => e.1.filter _) (fun x ne => ?_) (fun _ => ?_)
    · simp [State.setSendList, ne]
    · simp [State.setSendList, State.modifyStation]
  · exact .refl s

theorem State.enterUp_sends (s : State) (members : List Member) (cause : RingCause) :
    s.SendsKept (s.enterUp members cause) :=
  (s.modifyStation_sends _ .rfl).trans ((State.raiseStation_sends _ _ _).trans (State.tellLease_sends _ _))

theorem State.raiseMembership_sends (s : State) (previous members : List Member) :
    s.SendsKept (s.raiseMembership previous members) := by
  unfold State.raiseMembership
  split
  · exact .refl s
  · exact s.raiseStation_sends _ _

theorem State.reportDamaged_sends (s : State) : s.SendsKept s.reportDamaged := by
  have scored := s.modifyStation_sends ({ · with faultScore := scoreDamaged s.station.faultScore }) .rfl
  have warned (u : State) (r : EventRecord) : u.SendsKept
      ((u.modifyStation ({ · with faultWarning := true })).raiseStation .faults r) :=
    (u.modifyStation_sends _ .rfl).trans (State.raiseStation_sends _ _ _)
  unfold State.reportDamaged
  dsimp only
  split
  · refine State.SendsKept.trans ?_ (State.enterDown_sends _ _)
    split
    · exact scored.trans (warned _ _)
    · exact scored
  · split
    · exact scored.trans (warned _ _)
    · exact scored

theorem State.reportIntact_sends (s : State) : s.SendsKept s.reportIntact := by
  unfold State.reportIntact
  dsimp only
  split
  · exact (s.modifyStation_sends _ .rfl).trans ((State.modifyStation_sends _ _ .rfl).trans (State.raiseStation_sends _ _ _))
  · exact s.modifyStation_sends _ .rfl

theorem State.adoptCensus_sends (s : State) (members : List Member) : s.SendsKept (s.adoptCensus members) := by
  unfold State.adoptCensus
  split
  · exact s.enterUp_sends _ _
  · exact (s.modifyStation_sends _ .rfl).trans (State.raiseMembership_sends _ _ _)
  · split
    · exact (s.enterUp_sends _ _).trans (State.raiseMembership_sends _ _ _)
    · exact s.modifyStation_sends _ .rfl
  all_goals exact .refl s

theorem State.censusReturn_sends (s : State) (serial : Byte) (members : List Member) :
    s.SendsKept (s.censusReturn serial members) := by
  unfold State.censusReturn
  split
  · next flies =>
    split
    · dsimp only
      split
      · exact (s.modifyStation_sends _ (by simp [flies])).trans (State.enterHalted_sends _)
      · exact (s.modifyStation_sends _ (by simp [flies])).trans (State.adoptCensus_sends _ _)
    · exact .refl s
  all_goals exact .refl s

/-! ### Arrivals (R79 to R84) -/

theorem State.intoTransit_sends (s : State) (ws : List Word) : s.SendsKept (s.intoTransit ws) := by
  unfold State.intoTransit
  split
  · exact s.modifyLine_sends _
  · exact .refl s

theorem State.passFrame_sends (s : State) (f : Frame) (ws : List Word) : s.SendsKept (s.passFrame f ws) := by
  unfold State.passFrame
  split
  · exact (s.claimPasses_sends _ _ _ _ _).trans (State.intoTransit_sends _ _)
  · exact (s.releasePasses_sends _).trans (State.intoTransit_sends _ _)
  · next members _ =>
    have halted : s.SendsKept (if s.listsDuplicate members = true then s.enterHalted else s) := by
      split
      · exact s.enterHalted_sends
      · exact .refl s
    dsimp only
    split
    · exact halted
    · exact halted.trans (State.intoTransit_sends _ _)

theorem State.foreignFrame_sends (s : State) (f : Frame) (ws : List Word) : s.SendsKept (s.foreignFrame f ws) := by
  have reported : s.SendsKept (if s.ownNumber f then s.enterHalted else s) := by
    split
    · exact s.enterHalted_sends
    · exact .refl s
  have drawn (u : State) : u.SendsKept (if s.reportsDuplicate f then u.drawOrder else u) := by
    split
    · exact u.drawOrder_sends
    · exact .refl u
  unfold State.foreignFrame
  dsimp only
  split
  · exact reported
  · exact reported.trans ((drawn _).trans (State.passFrame_sends _ _ _))

theorem State.ownReturn_sends (s : State) (f : Frame) : s.SendsKept (s.ownReturn f) := by
  unfold State.ownReturn
  split
  · exact s.claimReturn_sends _ _ _ _ _
  · exact s.releaseReturn_sends _ _
  · exact s.censusReturn_sends _ _

theorem State.takeArrival_sends (s : State) (a : Arrival) : s.SendsKept (s.takeArrival a) := by
  unfold State.takeArrival
  split
  · exact s.reportDamaged_sends
  · dsimp only
    split
    · exact s.reportIntact_sends.trans (State.ownReturn_sends _ _)
    · exact s.reportIntact_sends.trans (State.foreignFrame_sends _ _ _)

theorem State.judgeNext_sends (s : State) (a : Arrival) (rest : List Arrival) : s.SendsKept (s.judgeNext a rest) := by
  unfold State.judgeNext
  dsimp only
  split
  · exact (s.modifyFrames_sends _ rfl).trans (State.takeArrival_sends _ _)
  · exact s.modifyFrames_sends _ rfl

theorem State.completeFrame_sends (s : State) (store : List Word) (violation overlong cutShort : Bool) (r : Receiver) :
    s.SendsKept ((s.completeFrame store violation overlong cutShort).setReceiver r) :=
  (s.modifyFrames_sends _ rfl).trans (State.modifyLine_sends _ _)

theorem State.receive_sends (s : State) (w : LineWord) : s.SendsKept (s.receive w) := by
  unfold State.receive
  split
  · split
    · exact s.modifyLine_sends _
    all_goals exact .refl s
  · split
    · split <;> exact s.modifyLine_sends _
    · exact s.modifyLine_sends _
    all_goals exact s.completeFrame_sends _ _ _ _ _

theorem State.detectWord_sends (s : State) : s.SendsKept s.detectWord := by
  have seen := s.modifyLine_sends ({ · with detector := .present Config.silenceMicros })
  have reported (u : State) : u.SendsKept u.reportPresent := by
    unfold State.reportPresent
    split
    · exact u.addCensus_sends
    · exact .refl u
  unfold State.detectWord
  dsimp only
  split
  · exact seen.trans (reported _)
  · exact seen

theorem State.becomeSilent_sends (s : State) : s.SendsKept s.becomeSilent := by
  unfold State.becomeSilent
  dsimp only
  refine State.SendsKept.trans ?_ ((State.modifyLine_sends _ _).trans (State.enterDown_sends _ _))
  split
  · exact .refl s
  · exact s.completeFrame_sends _ _ _ _ _

/-! ### LEAVE, START and the bypass (R102, R107, R121) -/

/-- With nothing that waits, an empty send list is exact. -/
theorem State.sendListExact_of_free {s : State} (free : ∀ i, s.tenancy i = none) (list : s.frames.sendList = [])
    (census : s.station.census = .none) : s.SendListExact := by
  refine ⟨list ▸ List.nodup_nil, fun i => ?_, fun i => ?_, ?_⟩ <;> simp [list, free, census]

theorem State.bypassClosed_sends (s : State) : s.SendsKept s.bypassClosed :=
  (s.modifyLine_sends _).trans ((State.modifyStation_sends _ _ .rfl).trans (State.setTaken_sends _ _))

theorem State.lineLeave_sends (s : State) : s.SendsKept s.lineLeave := by
  have blocks : s.lineLeave.frames.sendList = s.frames.sendList ∧ s.lineLeave.lease.entries = s.lease.entries ∧
      s.lineLeave.station.census = s.station.census := by
    unfold State.lineLeave
    dsimp only
    split <;> exact ⟨rfl, rfl, rfl⟩
  obtain ⟨list, entries, census⟩ := blocks
  exact State.sendsKept_of_blocks list entries census

/-- LEAVE leaves nothing that waits (R121). -/
theorem State.takeLeave_sends (s : State) : s.SendsKept s.takeLeave := fun _ => by
  rw [State.takeLeave_eq]
  exact s.leavingBlock.lineLeave_sends (State.sendListExact_of_free (State.freeEntries_tenancy _) rfl rfl)

/-- START from OFFLINE, where nothing waits (R106, R107). -/
theorem State.takeStart_sends {s : State} (line : s.StationLine) (offline : s.station.state = .offline) :
    s.SendsKept s.takeStart := fun _ => by
  obtain ⟨free, -, -, list, -⟩ := line.2.2 (.inl offline)
  exact State.sendListExact_of_free free list rfl

end Sys2Proof.Machine

namespace Sys2Proof.Machine

open Host.Outcome

/-! ### Origination (R27, R63, R87 to R90) -/

theorem State.originateItem_claim {s : State} {i : EntryIx} {v : Tenancy} {lost : Bool} (h : s.tenancy i = some v)
    (queued : v.state = .claiming .queued lost) :
    s.originateItem (.claim i) = (s.originate v.claimBody).modifyTenancy i
      (Tenancy.claimSent s.frames.serial s.config.settings.circuitTimeout) := by
  simp only [State.originateItem, h, Tenancy.claimQueued_iff.2 ⟨lost, queued⟩, if_true]

theorem State.originateItem_release {s : State} {i : EntryIx} {v : Tenancy} (h : s.tenancy i = some v)
    (queued : v.state = .releasing .queued) :
    s.originateItem (.release i) = (s.originate (.release v.tag)).modifyTenancy i
      (Tenancy.releaseSent s.frames.serial s.config.settings.circuitTimeout) := by
  simp only [State.originateItem, h, queued, if_true]

/-- The taken item of an entry, whose owner owes nothing once it is in flight. -/
theorem State.taken_sends {s t : State} {i : EntryIx} {v : Tenancy} {item : SendItem} {f : Tenancy → Tenancy}
    (h : s.tenancy i = some v) (tenancies : ∀ j, t.tenancy j = (s.modifyTenancy i f).tenancy j) (config : t.config = s.config)
    (list : t.frames.sendList = s.frames.sendList.erase item) (census : t.station.census = s.station.census)
    (before : v.owed i = some item) (owed : (f v).owed i = none) : s.SendsKept t :=
  ((State.turns_modifyTenancy h f).congr tenancies config).sends_taken list census before owed

theorem State.originateItem_sends {s : State} {item : SendItem} (listed : item ∈ s.frames.sendList) :
    s.SendsKept ((s.setSendList (s.frames.sendList.erase item)).originateItem item) := fun e => by
  have sent : ((s.setSendList (s.frames.sendList.erase item))).frames.sendList = s.frames.sendList.erase item := rfl
  cases item with
  | claim i =>
    obtain ⟨v, lost, h, queued⟩ := (e.2.1 i).1 listed
    rw [State.originateItem_claim (s := s.setSendList (s.frames.sendList.erase (.claim i))) h queued]
    exact State.taken_sends h (fun _ => rfl) rfl rfl rfl (Tenancy.owed_claim.2 ⟨rfl, lost, queued⟩) rfl e
  | release i =>
    obtain ⟨v, h, queued⟩ := (e.2.2.1 i).1 listed
    rw [State.originateItem_release (s := s.setSendList (s.frames.sendList.erase (.release i))) h queued]
    exact State.taken_sends h (fun _ => rfl) rfl rfl rfl (Tenancy.owed_release.2 ⟨rfl, queued⟩) rfl e
  | census =>
    refine State.sendsKept_of_census (s := s) (fun _ => rfl) (fun e => sent ▸ e.1.erase _) (fun x ne => ?_) (fun e => ?_) e
    · exact sent ▸ List.mem_erase_of_ne ne
    · refine iff_of_false (fun m => (e.1.mem_erase_iff.1 (sent ▸ m)).1 rfl) ?_
      simp [State.originateItem, State.modifyStation]

theorem State.boundary_sends (s : State) : s.SendsKept s.boundary := by
  unfold State.boundary
  split
  · exact (s.modifyLine_sends _).trans (State.modifyLine_sends _ _)
  · split
    · next found => exact State.originateItem_sends (List.mem_of_find?_eq_some found)
    · exact s.modifyLine_sends _

/-! ### The clock (R11) -/

theorem Tenancy.owed_tick (v : Tenancy) (i : EntryIx) : ({ v with state := v.state.tick } : Tenancy).owed i = v.owed i := by
  cases h : v.state with
  | claiming phase lost => cases phase <;> simp only [Tenancy.owed, h, EntryState.tick, FramePhase.tick]
  | releasing phase => cases phase <;> simp only [Tenancy.owed, h, EntryState.tick, FramePhase.tick]
  | _ => simp only [Tenancy.owed, h, EntryState.tick]

theorem StationRecord.tick_census_queued (r : StationRecord) : r.tick.census = .queued ↔ r.census = .queued := by
  cases h : r.census <;> simp [StationRecord.tick, Census.tick, h]

theorem State.clockPeriod_sends (s : State) : s.SendsKept s.clockPeriod := by
  refine State.sendsKept_of_entries (by rw [s.clockPeriod_same.1]) ?_ fun i => ?_
  · rw [s.clockPeriod_station]
    split
    · exact s.station.tick_census_queued
    · exact Iff.rfl
  · simp only [State.tenancy, State.entry, s.clockPeriod_lease]
    split
    · cases h : (s.lease.entries.get i).tenancy <;> simp [Vector.get_map, Entry.tick, h, Tenancy.owed_tick]
    · rfl

theorem State.idle_sends (s : State) : s.SendsKept s.idle := by
  unfold State.idle
  split
  · exact State.sendsKept_of_blocks rfl rfl rfl
  · exact s.clockPeriod_sends

/-! ### CLAIM (R18 to R20) -/

theorem State.openTenancy_sends {s : State} {i : EntryIx} {t : Tenancy} (free : s.tenancy i = none)
    (waits : t.state = .queuedLocal) : s.SendsKept (s.openTenancy i t) :=
  State.sendsKept_of_entries rfl .rfl fun j => by
    by_cases e : j = i
    · subst e; simp [State.openTenancy, free, Tenancy.owed_of_waits waits]
    · simp [State.openTenancy, State.tenancy, State.setEntry_entry, Ne.symm e]

theorem State.accept_sends {s : State} {i : EntryIx} {t : Tenancy} (free : s.tenancy i = none)
    (waits : t.state = .queuedLocal) : s.SendsKept (s.accept i t).1 := by
  have opened := State.openTenancy_sends free waits
  have present : (s.openTenancy i t).tenancy i = some t := by simp [State.openTenancy]
  have owed := Tenancy.owed_of_waits waits i
  have waiting (w : List EntryIx) : s.SendsKept ((s.openTenancy i t).setWaiting w) :=
    opened.trans (State.sendsKept_of_blocks rfl rfl rfl)
  unfold State.accept
  dsimp only
  split
  · split
    · exact waiting _
    · exact waiting _
    · exact opened.trans (State.grant_sends present owed _)
    · exact opened.trans (State.enterClaiming_sends present owed)
  · exact waiting _

theorem State.execClaim_sends (s : State) (ch : Channel) (echo : Byte) (tag : Tag) (mode priority : Byte) (term : Word)
    (limit : Byte) : ∃ t, execClaim ch echo tag mode priority term limit s = next t ∧ s.SendsKept t := by
  refine ⟨_, rfl, State.atPort_of (.refl s) ?_⟩
  split
  · exact s.answer_sends _ _ _ _ _
  · split
    · exact s.answer_sends _ _ _ _ _
    · next i lowest =>
      exact (State.accept_sends ((s.lowestFree_iff i).1 lowest).1 rfl).trans (State.answer_sends _ _ _ _ _ _)

end Sys2Proof.Machine

namespace Sys2Proof.Machine

open Host.Outcome

/-! ### Every event keeps the send list exact -/

theorem State.SendsKept.of_next {s t : State} {x : Host.Outcome State Fault Refusal} (h : ∃ r, x = next r ∧ s.SendsKept r)
    (e : x = next t) : s.SendsKept t := by
  obtain ⟨r, hr, k⟩ := h
  rw [hr] at e; cases e
  exact k

theorem State.SendsKept.answer {s t : State} (h : s.SendsKept t) (ch : Channel) (code echo : Byte) (status : Status)
    (values : ResultValues) : s.SendsKept (t.answer ch code echo status values) :=
  h.trans (t.answer_sends ch code echo status values)

theorem State.AnswersOrConfigures.sends {s t : State} (h : s.AnswersOrConfigures t) : s.SendsKept t := by
  rcases h with rfl | ⟨ch, code, echo, status, values, rfl⟩ | h
  · exact .refl _
  · exact s.answer_sends _ _ _ _ _
  · exact State.sendsKept_of_blocks (by rw [h.frames]) (by rw [h.lease]) (by rw [h.station])

theorem State.execResetChannel_sends (s : State) (ch : Channel) (echo : Byte) :
    ∃ t, execResetChannel ch echo s = next t ∧ s.SendsKept t := by
  refine ⟨_, rfl, State.atPort_of (.refl s) ?_⟩
  exact (s.channelReset_sends ch).answer _ _ _ _ _

theorem State.execResetChannelN_sends (s : State) (ch : Channel) (echo target : Byte) :
    ∃ t, execResetChannelN ch echo target s = next t ∧ s.SendsKept t := by
  refine ⟨_, rfl, State.channel0Only_of (.refl s) (s.answer_sends _ _ _) ?_⟩
  dsimp only
  split
  · exact s.answer_sends _ _ _ _ _
  · exact (s.channelReset_sends _).trans ((State.answer_sends _ _ _ _ _ _).trans (State.answer_sends _ _ _ _ _ _))

theorem State.execRelease_sends (s : State) (ch : Channel) (echo index generation : Byte) :
    ∃ t, execRelease ch echo index generation s = next t ∧ s.SendsKept t := by
  refine ⟨_, rfl, State.handleCommand_of (.refl s) (s.answer_sends _ _ _) fun i v ⟨_, h, _⟩ => ?_⟩
  have discarded : (s.discardDeferred i).tenancy i = some { v with deferred := none } := (State.turns_discardDeferred h).after
  exact (State.discardDeferred_sends h).trans ((State.releaseEntry_sends discarded v).trans (State.answer_sends _ _ _ _ _ _))

theorem State.execRenew_sends (s : State) (ch : Channel) (echo index generation : Byte) (term : Word) :
    ∃ t, execRenew ch echo index generation term s = next t ∧ s.SendsKept t := by
  refine ⟨_, rfl, State.handleCommand_of (.refl s) (s.answer_sends _ _ _) fun i v ⟨_, h, _⟩ => ?_⟩
  split
  · exact s.answer_sends _ _ _ _ _
  · split
    · next held =>
      obtain ⟨remaining, demand, hs⟩ := Tenancy.isHeld_iff.1 held
      have owed : (v.renew term.toNat).owed i = v.owed i := by
        rw [Tenancy.renew_of_held hs]; simp only [Tenancy.owed, hs]
      exact (State.modifyTenancy_sends h owed).trans (State.answer_sends _ _ _ _ _ _)
    · exact s.answer_sends _ _ _ _ _

theorem State.execStart_sends {s : State} (line : s.StationLine) (ch : Channel) (echo : Byte) :
    ∃ t, execStart ch echo s = next t ∧ s.SendsKept t := by
  refine ⟨_, rfl, State.configCommand_of (.refl s) (s.answer_sends _ _ _) fun offline _ => ?_⟩
  split
  · exact (State.takeStart_sends line offline).trans (State.answer_sends _ _ _ _ _ _)
  · exact s.answer_sends _ _ _ _ _

theorem State.judgeWaiting_sends (l : List Arrival) (s : State) : s.SendsKept (State.judgeWaiting l s) := by
  induction l generalizing s with
  | nil => exact .refl s
  | cons a l ih => exact (s.judgeNext_sends a l).trans (ih _)

theorem State.execLeave_sends (s : State) (ch : Channel) (echo : Byte) :
    ∃ t, execLeave ch echo s = next t ∧ s.SendsKept t := by
  refine ⟨_, rfl, State.channel0Only_of (.refl s) (s.answer_sends _ _ _) ?_⟩
  split
  · exact s.answer_sends _ _ _ _ _
  · exact (State.judgeWaiting_sends _ s).trans ((State.takeLeave_sends _).trans (State.answer_sends _ _ _ _ _ _))

/-! ### The timers of the entries (R40 to R43, R52 to R54, R65) -/

theorem State.execTermTick_sends (s : State) (i : EntryIx) : ∃ t, execTermTick i s = next t ∧ s.SendsKept t := by
  refine ⟨_, rfl, ?_⟩
  split
  · exact .refl s
  · next v h =>
    split
    · next k demand hs =>
      split
      · exact (State.modifyTenancy_sends h (by simp only [Tenancy.owed, hs])).trans (State.raiseLease_sends _ _ _ _)
      · exact State.modifyTenancy_sends h (by simp only [Tenancy.owed, hs])
    all_goals exact .refl s

theorem State.execTermExpiry_sends (s : State) (i : EntryIx) : ∃ t, execTermExpiry i s = next t ∧ s.SendsKept t := by
  refine ⟨_, rfl, ?_⟩
  split
  · exact .refl s
  · split
    · exact (s.raiseLease_sends _ _ _).trans (State.releaseHeld_sends _ _ _)
    all_goals exact .refl s

theorem State.execBackoffExpiry_sends (s : State) (i : EntryIx) : ∃ t, execBackoffExpiry i s = next t ∧ s.SendsKept t := by
  refine ⟨_, rfl, ?_⟩
  split
  · exact .refl s
  · next h =>
    split
    · next hs => exact State.enterClaiming_sends h (by simp only [Tenancy.owed, hs])
    all_goals exact .refl s

theorem State.execClaimCircuitTimeout_sends (s : State) (i : EntryIx) :
    ∃ t, execClaimCircuitTimeout i s = next t ∧ s.SendsKept t := by
  refine ⟨_, rfl, ?_⟩
  split
  · exact .refl s
  · next h =>
    split
    · next hs =>
      split
      · exact State.failAttempt_sends h (Tenancy.owed_of_flies hs i) _ _
      · exact State.endAndExamine_sends h _
    all_goals exact .refl s

theorem State.execReleaseCircuitTimeout_sends (s : State) (i : EntryIx) :
    ∃ t, execReleaseCircuitTimeout i s = next t ∧ s.SendsKept t := by
  refine ⟨_, rfl, ?_⟩
  split
  · exact .refl s
  · next h =>
    split
    · exact State.endAndExamine_sends h _
    all_goals exact .refl s

/-! ### The line and the station (R79 to R113) -/

theorem State.execFrameArrival_sends (s : State) : ∃ t, execFrameArrival s = next t ∧ s.SendsKept t := by
  refine ⟨_, rfl, ?_⟩
  split
  · exact .refl s
  · exact s.judgeNext_sends _ _

theorem State.execFrameBoundary_sends (s : State) : ∃ t, execFrameBoundary s = next t ∧ s.SendsKept t := by
  refine ⟨_, rfl, ?_⟩
  split
  · exact s.boundary_sends
  · exact s.boundary_sends
  all_goals exact .refl s

theorem State.execFrameEndSent_sends (s : State) : ∃ t, execFrameEndSent s = next t ∧ s.SendsKept t := by
  refine ⟨_, rfl, ?_⟩
  split
  · exact s.modifyLine_sends _
  · exact (s.modifyLine_sends _).trans (State.bypassClosed_sends _)
  all_goals exact .refl s

theorem State.execDrainingEndSent_sends (s : State) : ∃ t, execDrainingEndSent s = next t ∧ s.SendsKept t := by
  refine ⟨_, rfl, ?_⟩
  split
  · exact (s.modifyLine_sends _).trans (State.bypassClosed_sends _)
  · exact .refl s

theorem State.execRelaySettleExpiry_sends (s : State) : ∃ t, execRelaySettleExpiry s = next t ∧ s.SendsKept t := by
  refine ⟨_, rfl, ?_⟩
  split
  · exact (s.modifyLine_sends _).trans (State.modifyStation_sends _ _ .rfl)
  all_goals exact .refl s

theorem State.execLineWordReceived_sends (s : State) (w : LineWord) :
    ∃ t, execLineWordReceived w s = next t ∧ s.SendsKept t := by
  have seen : s.SendsKept (if wordIsValid w then s.detectWord else s) := by
    split
    · exact s.detectWord_sends
    · exact .refl s
  refine ⟨_, rfl, ?_⟩
  split
  · exact seen.trans (State.receive_sends _ _)
  · exact .refl s

theorem State.execUpstreamPresent_sends (s : State) : ∃ t, execUpstreamPresent s = next t ∧ s.SendsKept t := by
  refine ⟨_, rfl, ?_⟩
  split
  · exact s.detectWord_sends
  · exact .refl s

theorem State.execUpstreamSilent_sends (s : State) : ∃ t, execUpstreamSilent s = next t ∧ s.SendsKept t := by
  refine ⟨_, rfl, ?_⟩
  split
  · exact s.becomeSilent_sends
  · exact .refl s

theorem State.execJoinHoldOffExpiry_sends (s : State) : ∃ t, execJoinHoldOffExpiry s = next t ∧ s.SendsKept t := by
  refine ⟨_, rfl, ?_⟩
  split
  · exact .refl s
  · dsimp only
    split
    · exact (s.modifyStation_sends _ .rfl).trans (State.addCensus_sends _)
    · exact (s.modifyStation_sends _ .rfl).trans (State.modifyStation_sends _ _ .rfl)

theorem State.execCensusIntervalExpiry_sends (s : State) : ∃ t, execCensusIntervalExpiry s = next t ∧ s.SendsKept t := by
  have counted := s.modifyStation_sends ({ · with interval := s.nextInterval }) .rfl
  refine ⟨_, rfl, ?_⟩
  split
  · exact .refl s
  · dsimp only
    split
    · exact counted.trans (State.addCensus_sends _)
    · split
      · exact counted.trans (State.addCensus_sends _)
      · exact counted
    · split
      · exact counted.trans (State.addCensus_sends _)
      · split
        · exact counted.trans (State.modifyStation_sends _ _ .rfl)
        · exact counted
    all_goals exact counted

theorem State.execCensusLoss_sends (s : State) : ∃ t, execCensusLoss s = next t ∧ s.SendsKept t := by
  refine ⟨_, rfl, ?_⟩
  split
  · exact .refl s
  · exact .refl s
  · next flies =>
    have lost := s.modifyStation_sends ({ · with census := .none }) (by simp [flies])
    dsimp only
    split
    · exact lost.trans (State.modifyStation_sends _ _ .rfl)
    · split
      · exact lost.trans ((State.modifyStation_sends _ _ .rfl).trans (State.addCensus_sends _))
      · exact lost.trans (State.enterDown_sends _ _)
    all_goals exact lost

theorem State.execStationTimestampTick_sends (s : State) : ∃ t, execStationTimestampTick s = next t ∧ s.SendsKept t := by
  refine ⟨_, rfl, ?_⟩
  split
  · exact .refl s
  · exact s.modifyStation_sends _ .rfl

theorem State.atPort_channel_sends (s : State) (ch : Channel) (f : ChannelState → ChannelState) :
    s.SendsKept (s.atPort fun s => s.modifyChannel ch f) := State.atPort_of (.refl s) (s.modifyChannel_sends _ _)

theorem exec_sends {c : Instr} {s t : State} (line : s.StationLine) (h : exec c s = next t) : s.SendsKept t := by
  cases c with
  | claim => exact .of_next (s.execClaim_sends _ _ _ _ _ _ _) h
  | release => exact .of_next (s.execRelease_sends _ _ _ _) h
  | renew => exact .of_next (s.execRenew_sends _ _ _ _ _) h
  | query =>
    exact .of_next ⟨_, rfl, State.handleCommand_of (.refl s) (s.answer_sends _ _ _) fun _ _ _ => s.answer_sends _ _ _ _ _⟩ h
  | status => exact .of_next ⟨_, rfl, State.atPort_of (.refl s) (s.answer_sends _ _ _ _ _)⟩ h
  | members =>
    refine .of_next ⟨_, rfl, State.atPort_of (.refl s) ?_⟩ h
    split <;> exact s.answer_sends _ _ _ _ _
  | resetChannel => exact .of_next (s.execResetChannel_sends _ _) h
  | resetChannelN => exact .of_next (s.execResetChannelN_sends _ _ _) h
  | start => exact .of_next (State.execStart_sends line _ _) h
  | leave => exact .of_next (s.execLeave_sends _ _) h
  | configureStation =>
    obtain ⟨r, hr, k⟩ := s.execConfigureStation_cases _ _ _ _ _ _ _ _
    exact .of_next ⟨r, hr, k.sends⟩ h
  | setChannelLimits =>
    obtain ⟨r, hr, k⟩ := s.execSetChannelLimits_cases _ _ _ _ _ _
    exact .of_next ⟨r, hr, k.sends⟩ h
  | setWindow =>
    obtain ⟨r, hr, k⟩ := s.execSetWindow_cases _ _ _ _ _ _ _ _ _
    exact .of_next ⟨r, hr, k.sends⟩ h
  | setRoute =>
    obtain ⟨r, hr, k⟩ := s.execSetRoute_cases _ _ _ _
    exact .of_next ⟨r, hr, k.sends⟩ h
  | unknownCommand => exact .of_next ⟨_, rfl, State.atPort_of (.refl s) (s.answer_sends _ _ _ _ _)⟩ h
  | shortWriteCommand => exact .of_next ⟨_, rfl, s.atPort_channel_sends _ _⟩ h
  | readEvent => exact .of_next ⟨_, rfl, State.atPort_of (.refl s) (s.readEvent_sends _)⟩ h
  | readAttention => exact .of_next ⟨_, rfl, s.atPort_channel_sends _ _⟩ h
  | unknownOpcode => exact .of_next ⟨_, rfl, s.atPort_channel_sends _ _⟩ h
  | deviceReset => cases h; exact fun _ => State.sendListExact_of_free State.reset_tenancy rfl rfl
  | upstreamPresent => exact .of_next s.execUpstreamPresent_sends h
  | upstreamSilent => exact .of_next s.execUpstreamSilent_sends h
  | frameArrival => exact .of_next s.execFrameArrival_sends h
  | frameBoundary => exact .of_next s.execFrameBoundary_sends h
  | drainingEndSent => exact .of_next s.execDrainingEndSent_sends h
  | relaySettleExpiry => exact .of_next s.execRelaySettleExpiry_sends h
  | joinHoldOffExpiry => exact .of_next s.execJoinHoldOffExpiry_sends h
  | censusIntervalExpiry => exact .of_next s.execCensusIntervalExpiry_sends h
  | censusLoss => exact .of_next s.execCensusLoss_sends h
  | termTick i => exact .of_next (s.execTermTick_sends i) h
  | termExpiry i => exact .of_next (s.execTermExpiry_sends i) h
  | backoffExpiry i => exact .of_next (s.execBackoffExpiry_sends i) h
  | claimCircuitTimeout i => exact .of_next (s.execClaimCircuitTimeout_sends i) h
  | releaseCircuitTimeout i => exact .of_next (s.execReleaseCircuitTimeout_sends i) h
  | leaseTableTakesStateChange => exact .of_next ⟨_, rfl, s.takeChange_sends⟩ h
  | lineWordReceived w => exact .of_next (s.execLineWordReceived_sends w) h
  | frameEndSent => exact .of_next s.execFrameEndSent_sends h
  | stationTimestampTick => exact .of_next s.execStationTimestampTick_sends h
  | resetRelease => cases h; exact State.sendsKept_of_blocks rfl rfl rfl

/-- Settles O17: each event changes the send list with the frame of an entry or with the census that it turns. -/
theorem stepKeepsSendListExact : Obligations.StepKeepsSendListExact := fun s t ⟨line, sends⟩ h => by
  rcases step_cases h with ⟨-, rfl⟩ | ⟨c, rest, -, ran⟩
  · exact ⟨(State.idle_ringStep line).line, s.idle_sends sends⟩
  · have popped : s.SameRing { s with pending := rest } := ⟨rfl, fun _ h => h, rfl, rfl, rfl, rfl, rfl⟩
    exact ⟨(exec_ringStep (popped.stationLine line) ran).line, exec_sends (popped.stationLine line) ran sends⟩

end Sys2Proof.Machine

namespace Sys2Proof.Machine

open Host.Outcome

/-! ### The order of claims (R25) -/

theorem better_iff {standing standing' : Nat} {station station' : StationNo} :
    better standing station standing' station' = true ↔
      standing' < standing ∨ (standing = standing' ∧ station.toNat < station'.toNat) := by
  simp [better]

/-- Settles O49: standings decide, and at equal standing two different station numbers do. -/
theorem claimsAreOrderedByStandingThenNumber : Obligations.ClaimsAreOrderedByStandingThenNumber := by
  intro standing standing' station station'
  refine ⟨fun h => better_iff.2 (.inl h), ?_, fun ne => ?_⟩
  · rw [better_iff]; simp
  · have differ : station.toNat ≠ station'.toNat := fun e => ne (BitVec.eq_of_toNat_eq e)
    rw [Bool.eq_not, Ne, Bool.eq_iff_iff, better_iff, better_iff]
    omega

/-! ### The entry timers (R38, R40, R42, R43, R65) -/

theorem State.claimCircuitTimeout_eq {s : State} {i : EntryIx} {t : Tenancy} {serial : Byte} {circuit : Nat} {lost : Bool}
    (h : s.tenancy i = some t) (flies : t.state = .claiming (.inFlight serial circuit) lost) :
    exec (.claimCircuitTimeout i) s =
      next (if t.attached = true then s.failAttempt i .timeout none else (s.endTenancy i).examine t.tag) := by
  simp only [exec, execClaimCircuitTimeout, h, flies]
  rfl

/-- Settles O59: one expiry for each state whose entry has a timer of its own. -/
theorem entryTimersRetryFailOrEnd : Obligations.EntryTimersRetryFailOrEnd := by
  intro s i t h
  refine ⟨fun timer waits => ?_, fun serial circuit lost flies => ⟨fun attached left => ?_, fun attached out => ?_,
    fun detached => ?_⟩, fun serial circuit flies => ?_⟩
  · simp only [exec, execBackoffExpiry, h, waits]
    rfl
  · rw [State.claimCircuitTimeout_eq h flies, if_pos attached, State.failAttempt_backsOff h left]
    rfl
  · rw [State.claimCircuitTimeout_eq h flies, if_pos attached, State.failAttempt_denied h out]
  · rw [State.claimCircuitTimeout_eq h flies, if_neg (by simp [detached])]
  · simp only [exec, execReleaseCircuitTimeout, h, flies]
    rfl

/-! ### Own CLAIMs coming home (R34 to R39, R44) -/

theorem Tenancy.claimInFlight_iff {v : Tenancy} {serial : Byte} {tag : Tag} :
    v.claimInFlight serial tag = true ↔
      v.tag = tag ∧ ∃ circuit lost, v.state = .claiming (.inFlight serial circuit) lost := by
  refine ⟨Tenancy.claimInFlight_spec, fun ⟨g, circuit, lost, hs⟩ => ?_⟩
  simp [Tenancy.claimInFlight, hs, g]

/-- An entry that is not CLAIMING in flight with this serial and tag is not found. -/
theorem Tenancy.claimInFlight_not {v : Tenancy} {serial : Byte} {tag : Tag}
    (h : v.tag = tag → ∀ circuit lost, v.state ≠ .claiming (.inFlight serial circuit) lost) :
    v.claimInFlight serial tag = false := by
  rw [Bool.eq_false_iff, ne_eq, Tenancy.claimInFlight_iff]
  exact fun ⟨g, circuit, lost, hs⟩ => h g circuit lost hs

theorem State.claimReturn_unmatched {s : State} {serial : Byte} {tag : Tag} {held yield : Bool} {objector : Option StationNo}
    (h : ∀ i t circuit lost, s.tenancy i = some t → t.tag = tag → t.state ≠ .claiming (.inFlight serial circuit) lost) :
    s.claimReturn serial tag held yield objector = s := by
  have none : allIx.find? (s.entryMeets (Tenancy.claimInFlight serial tag)) = none :=
    State.find_none fun i t ht => Tenancy.claimInFlight_not fun g circuit lost => h i t circuit lost ht g
  simp only [State.claimReturn, none]

/-- The outcome of a return that one entry alone matches. -/
theorem State.claimReturn_matched {s : State} {serial : Byte} {tag : Tag} {held yield lost : Bool}
    {objector : Option StationNo} {i : EntryIx} {t : Tenancy} {circuit : Nat} (h : s.tenancy i = some t) (on : t.tag = tag)
    (flies : t.state = .claiming (.inFlight serial circuit) lost)
    (alone : ∀ j u c l, j ≠ i → s.tenancy j = some u → u.tag = tag → u.state ≠ .claiming (.inFlight serial c) l) :
    s.claimReturn serial tag held yield objector =
      if t.attached = false then (s.endTenancy i).examine tag
      else if held = true then s.failAttempt i .held objector
      else if yield = true then s.failAttempt i .yield objector
      else if lost = true then s.failAttempt i .lost none
      else (s.grant i false).examine tag := by
  have found : allIx.find? (s.entryMeets (Tenancy.claimInFlight serial tag)) = some i :=
    State.find_only h (Tenancy.claimInFlight_iff.2 ⟨on, circuit, lost, flies⟩) fun j u ne hu =>
      Tenancy.claimInFlight_not fun g c l => alone j u c l ne hu g
  have flag : t.lost = lost := by simp only [Tenancy.lost, flies]
  simp only [State.claimReturn, found, h, flag, State.endAndExamine]

/-- An own CLAIM is handed to the Lease Table once it is counted intact (R80). -/
theorem State.arrival_ownClaim {s : State} {a : Arrival} {rest : List Arrival} {f : Frame} {tag : Tag} {m : Mode}
    {standing : BitVec 4} {held yield : Bool} {objector : Option StationNo} (arrives : s.Arrives a rest)
    (intact : a.judge = some f) (own : s.Own f) (body : f.body = .claim tag m standing held yield objector) :
    exec .frameArrival s = next ((s.afterIntact rest).claimReturn f.serial tag held yield objector) := by
  rw [State.arrival_own arrives intact own, State.ownReturn, body]

/-- Settles O46: no entry is found for the frame. -/
theorem unmatchedOwnClaimIsStripped : Obligations.UnmatchedOwnClaimIsStripped := by
  intro s a rest f tag m standing held yield objector arrives intact own body unmatched
  rw [State.arrival_ownClaim arrives intact own body, State.claimReturn_unmatched]
  simpa only [State.afterIntact_tenancy] using unmatched

/-- Settles O47: the entry found decides by its attachment, the marks and its lost flag. -/
theorem ownClaimReturnGrantsOrFails : Obligations.OwnClaimReturnGrantsOrFails := by
  intro s s0 a rest f tag m standing held yield lost objector i t circuit retry arrives intact own body h on flies alone hs0
    hretry
  have after : s0.tenancy i = some t := by rw [hs0, State.afterIntact_tenancy, h]
  have interval : s0.config.settings.retryInterval = retry := by rw [hs0, State.afterIntact_config, hretry]
  have returned := State.arrival_ownClaim arrives intact own body
  have others : ∀ j u c l, j ≠ i → s0.tenancy j = some u → u.tag = tag → u.state ≠ .claiming (.inFlight f.serial c) l := by
    simpa only [hs0, State.afterIntact_tenancy] using alone
  rw [returned, ← hs0, State.claimReturn_matched after on flies others]
  have retries (left : t.attempts < t.attemptLimit) (cause : FailCause) (by_ : Option StationNo) (timer : Nat)
      (e : s0.backoffTime cause = timer) : s0.failAttempt i cause by_ = s0.backsOff i cause by_ timer := by
    rw [State.failAttempt_backsOff after left, e]
  refine ⟨fun detached => by rw [if_pos detached], fun attached => ?_⟩
  rw [if_neg (by simp [attached])]
  refine ⟨fun unheld unyield unlost => ?_, fun hd left => ?_, fun hd out => ?_, fun unheld yd left => ?_,
    fun unheld yd out => ?_, fun unheld unyield ld left => ?_, fun unheld unyield ld out => ?_⟩
  · simp [unheld, unyield, unlost, State.grant_eq after]
  · rw [if_pos hd, retries left .held objector _ (by rw [State.backoffTime, interval])]
  · rw [if_pos hd, State.failAttempt_denied after out]
  · rw [if_neg (by simp [unheld]), if_pos yd, retries left .yield objector _ (by rw [State.backoffTime, interval])]
  · rw [if_neg (by simp [unheld]), if_pos yd, State.failAttempt_denied after out]
  · rw [if_neg (by simp [unheld]), if_neg (by simp [unyield]), if_pos ld,
      retries left .lost none _ (by rw [State.backoffTime, interval])]
  · rw [if_neg (by simp [unheld]), if_neg (by simp [unyield]), if_pos ld, State.failAttempt_denied after out]

end Sys2Proof.Machine

namespace Sys2Proof.Machine

/-! ### A passing RELEASE (R41, R83) -/

theorem Tenancy.isBackoff_iff {v : Tenancy} : v.isBackoff = true ↔ ∃ timer, v.state = .backoff timer := by
  unfold Tenancy.isBackoff
  cases h : v.state <;> simp [EntryState.name]

theorem State.releasePasses_backoff {s : State} {tag : Tag} {i : EntryIx} {t : Tenancy} {timer : Nat}
    (h : s.tenancy i = some t) (on : t.tag = tag) (waits : t.state = .backoff timer)
    (alone : ∀ j u k, j ≠ i → s.tenancy j = some u → u.tag = tag → u.state ≠ .backoff k) :
    s.releasePasses tag = s.enterClaiming i := by
  have found : allIx.find? (s.onTag tag Tenancy.isBackoff) = some i :=
    State.find_onTag_only h on (Tenancy.isBackoff_iff.2 ⟨timer, waits⟩) fun j u ne hu g => by
      rw [Bool.eq_false_iff, ne_eq, Tenancy.isBackoff_iff]
      exact fun ⟨k, hk⟩ => alone j u k ne hu g hk
  simp only [State.releasePasses, found]

theorem State.releasePasses_none {s : State} {tag : Tag}
    (h : ∀ i t timer, s.tenancy i = some t → t.tag = tag → t.state ≠ .backoff timer) : s.releasePasses tag = s := by
  have none : allIx.find? (s.onTag tag Tenancy.isBackoff) = none := State.find_onTag_none fun i t ht g => by
    rw [Bool.eq_false_iff, ne_eq, Tenancy.isBackoff_iff]
    exact fun ⟨k, hk⟩ => h i t k ht g hk
  simp only [State.releasePasses, none]

theorem State.passFrame_release {s : State} {f : Frame} {tag : Tag} (body : f.body = .release tag) (ws : List Word) :
    s.passFrame f ws = (s.releasePasses tag).intoTransit (forwardWords ws id) := by
  simp only [State.passFrame, body]

/-! ### A passing CENSUS (R84, R120) -/

/-- This station's entry in a census. -/
def State.member (s : State) : Member := { number := s.config.settings.stationNumber, identity := s.identity }

theorem State.passFrame_census {s : State} {f : Frame} {members : List Member} (body : f.body = .census members)
    (ws : List Word) :
    s.passFrame f ws =
      if s.member ∈ members ∨ 64 ≤ members.length then (if s.listsDuplicate members = true then s.enterHalted else s)
      else (if s.listsDuplicate members = true then s.enterHalted else s).intoTransit
        (forwardWords ws (censusChange (members.length + 1) s.member)) := by
  have strips : (s.listsSelf members || decide (Config.censusCapacity ≤ members.length)) = true ↔
      s.member ∈ members ∨ 64 ≤ members.length := by
    rw [Bool.or_eq_true, decide_eq_true_eq, State.listsSelf_iff]; exact Iff.rfl
  simp only [State.passFrame, body, strips]
  rfl

/-- A census that names this station's number with another identity halts a station that is in the ring. -/
theorem State.halted_of_duplicate (s : State) (members : List Member) :
    (if s.listsDuplicate members = true then s.enterHalted else s) =
      if (∃ m ∈ members, m.number = s.config.settings.stationNumber ∧ m.identity ≠ s.identity) ∧
        s.station.state ≠ .halted ∧ s.station.state ≠ .offline then s.halts else s := by
  by_cases named : ∃ m ∈ members, m.number = s.config.settings.stationNumber ∧ m.identity ≠ s.identity
  · rw [if_pos ((s.listsDuplicate_iff members).2 named)]
    cases state : s.station.state with
    | offline => rw [State.enterHalted_not (.inr state)]; simp
    | halted => rw [State.enterHalted_not (.inl state)]; simp
    | joining => rw [State.enterHalted_eq (.inl state), if_pos ⟨named, by simp⟩]
    | up => rw [State.enterHalted_eq (.inr (.inl state)), if_pos ⟨named, by simp⟩]
    | down => rw [State.enterHalted_eq (.inr (.inr state)), if_pos ⟨named, by simp⟩]
  · rw [if_neg (fun h => named ((s.listsDuplicate_iff members).1 h)), if_neg (fun h => named h.1)]

/-! ### The transit store (R96) -/

theorem State.intoTransit_room {s : State} {ws : List Word} (h : transitWords s.line.transit + ws.length ≤ 512) :
    s.intoTransit ws = s.modifyLine ({ · with transit := s.line.transit ++ [ws] }) := if_pos h

theorem State.intoTransit_full {s : State} {ws : List Word} (h : 512 < transitWords s.line.transit + ws.length) :
    s.intoTransit ws = s := if_neg (Nat.not_le.2 h)

/-- Settles O53: a search for the BACKOFF entry, the checks of the census list, and the room in the transit store. -/
theorem passingReleaseAndCensus : Obligations.PassingReleaseAndCensus := by
  intro s f ws
  refine ⟨fun tag i t timer body h on waits alone => ?_, fun tag body unmatched => ?_, fun members s1 body hs1 => ?_,
    State.intoTransit_room, State.intoTransit_full⟩
  · rw [State.passFrame_release body, State.releasePasses_backoff h on waits alone]
    rfl
  · rw [State.passFrame_release body, State.releasePasses_none unmatched]
  · rw [State.passFrame_census body, s.halted_of_duplicate members, ← hs1]
    exact ⟨fun strips => if_pos strips, fun absent room => if_neg (not_or.2 ⟨absent, Nat.not_le.2 room⟩)⟩

end Sys2Proof.Machine

namespace Sys2Proof.Machine

open Host.Outcome

/-! ### What is sendable (R88) -/

theorem SendItem.sendable_up (x : SendItem) : x.sendable .up = true := by cases x <;> rfl

theorem SendItem.sendable_halted (x : SendItem) : x.sendable .halted = false := by cases x <;> rfl

theorem SendItem.sendable_census_iff {state : StationState} (h : state = .joining ∨ state = .down) (x : SendItem) :
    x.sendable state = true ↔ x = .census := by
  rcases h with rfl | rfl <;> cases x <;> simp [SendItem.sendable]

/-! ### The frame boundary (R97) -/

theorem State.frameBoundary_eq {s : State} (inserted : s.line.mode = .inserted)
    (idle : ∀ ws sent, s.line.transmitter ≠ .sending ws sent) : exec .frameBoundary s = next s.boundary := by
  cases sends : s.line.transmitter with
  | sending ws sent => exact absurd sends (idle ws sent)
  | _ => simp only [exec, execFrameBoundary, inserted, sends]

theorem State.boundary_forwards {s : State} {ws : List Word} {rest : List (List Word)} (h : s.line.transit = ws :: rest) :
    s.boundary = s.modifyLine ({ · with transit := rest, transmitter := .sending ws 1 }) := by
  simp only [State.boundary, h]
  rfl

theorem State.boundary_originates {s : State} {item : SendItem} (empty : s.line.transit = [])
    (found : s.frames.sendList.find? (·.sendable s.station.state) = some item) :
    s.boundary = (s.setSendList (s.frames.sendList.erase item)).originateItem item := by
  simp only [State.boundary, empty, found]

theorem State.boundary_fills {s : State} (empty : s.line.transit = [])
    (none : ∀ x ∈ s.frames.sendList, x.sendable s.station.state = false) :
    s.boundary = s.modifyLine ({ · with transmitter := .idle 0 }) := by
  have nothing : s.frames.sendList.find? (·.sendable s.station.state) = .none :=
    List.find?_eq_none.2 fun x m => by simp [none x m]
  simp only [State.boundary, empty, nothing]

/-- In UP the oldest item of all is originated (R88, R89). -/
theorem State.boundary_up {s : State} {item : SendItem} {rest : List SendItem} (empty : s.line.transit = [])
    (up : s.station.state = .up) (list : s.frames.sendList = item :: rest) :
    s.boundary = (s.setSendList rest).originateItem item := by
  rw [State.boundary_originates empty (item := item) (by simp [list, up, item.sendable_up]), list,
    List.erase_cons_head]

/-- In JOINING and DOWN the items of the entries wait behind the census (R88). -/
theorem State.boundary_census {s : State} {before after : List SendItem} (empty : s.line.transit = [])
    (list : s.frames.sendList = before ++ .census :: after) (first : .census ∉ before)
    (state : s.station.state = .joining ∨ s.station.state = .down) :
    s.boundary = (s.setSendList (before ++ after)).originateItem .census := by
  have found : s.frames.sendList.find? (·.sendable s.station.state) = some .census := by
    have unsendable : before.find? (·.sendable s.station.state) = none :=
      List.find?_eq_none.2 fun x m sendable => first ((SendItem.sendable_census_iff state x).1 sendable ▸ m)
    have sendable := (SendItem.sendable_census_iff state .census).2 rfl
    rw [list, List.find?_append, unsendable]
    simp [sendable]
  rw [State.boundary_originates empty found, list, List.erase_append_right _ first, List.erase_cons_head]

/-- Two changes that agree at the tenancy of the entry. -/
theorem State.modifyTenancy_congr {s : State} {i : EntryIx} {v : Tenancy} (h : s.tenancy i = some v) {f g : Tenancy → Tenancy}
    (e : f v = g v) : s.modifyTenancy i f = s.modifyTenancy i g := by
  rw [State.modifyTenancy_of_some h, State.modifyTenancy_of_some h, e]

/-- Settles O54: the transit store, then the oldest sendable item, then IDLE. -/
theorem frameBoundaryForwardsOriginatesOrFills : Obligations.FrameBoundaryForwardsOriginatesOrFills := by
  intro s timeout header inserted idle htimeout hheader
  have own : header = s.ownFrame := funext hheader
  subst own htimeout
  rw [State.frameBoundary_eq inserted idle]
  refine ⟨fun ws rest h => by rw [State.boundary_forwards h], fun empty =>
    ⟨fun i t lost rest up list h queued => ?_, fun i t rest up list h queued => ?_, fun before after list first state => ?_,
      fun nothing => ?_⟩⟩
  · have flag : t.lost = lost := by simp only [Tenancy.lost, queued]
    rw [State.boundary_up empty up list, State.originateItem_claim (s := s.setSendList rest) h queued, ← flag]
    exact congrArg next (State.modifyTenancy_congr (s := (s.setSendList rest).originate t.claimBody) h rfl)
  · rw [State.boundary_up empty up list, State.originateItem_release (s := s.setSendList rest) h queued]
    rfl
  · have originates : s.boundary = (s.setSendList (before ++ after)).originateItem .census := by
      rcases state with ⟨up, rfl⟩ | state
      · exact State.boundary_up empty up list
      · exact State.boundary_census empty list first state
    rw [originates]
    rfl
  · rw [State.boundary_fills empty fun x m => ?_]
    rcases nothing with none | halted | ⟨state, absent⟩
    · rw [none] at m; cases m
    · rw [halted, SendItem.sendable_halted]
    · rw [Bool.eq_false_iff, ne_eq, SendItem.sendable_census_iff state]
      exact fun e => absent (e ▸ m)

end Sys2Proof.Machine

namespace Sys2Proof.Machine

/-! ### A holder's demand at one entry (R29, R30) -/

/-- What the demand leaves of a tenancy HELD on the tag. -/
def Tenancy.demanded (remaining : Nat) (u : Tenancy) : Tenancy :=
  { u with state := .held remaining true, contendedNotified := true }

theorem State.demandOn_cases (tag : Tag) (claimant : StationNo) (s : State) (i : EntryIx) :
    (State.demandOn tag claimant s i = s ∧ ∀ u, s.tenancy i = some u → u.tag ≠ tag ∨ u.isHeld = false) ∨
      ∃ u remaining demand, s.tenancy i = some u ∧ u.tag = tag ∧ u.state = .held remaining demand ∧
        (u.contendedNotified = true ∧ State.demandOn tag claimant s i = s.modifyTenancy i (Tenancy.demanded remaining) ∨
          u.contendedNotified = false ∧ State.demandOn tag claimant s i =
            (s.modifyTenancy i (Tenancy.demanded remaining)).raiseLease i (.contended claimant) {}) := by
  obtain ⟨other, demands⟩ := s.demandOn_demanded tag claimant i
  by_cases none : ∀ u, s.tenancy i = some u → u.tag ≠ tag ∨ u.isHeld = false
  · exact .inl ⟨other none, none⟩
  · push Not at none
    obtain ⟨u, h, on, held⟩ := none
    obtain ⟨remaining, demand, hs⟩ := Tenancy.isHeld_iff.1 (by simpa using held)
    obtain ⟨before, first⟩ := demands u remaining demand _ h on hs rfl
    refine .inr ⟨u, remaining, demand, h, on, hs, ?_⟩
    cases notified : u.contendedNotified with
    | true => exact .inl ⟨rfl, before notified⟩
    | false => exact .inr ⟨rfl, first notified⟩

theorem State.demandOn_other (tag : Tag) (claimant : StationNo) (s : State) {i j : EntryIx} (ne : j ≠ i) :
    (State.demandOn tag claimant s i).tenancy j = s.tenancy j := by
  have demanded (remaining : Nat) : (s.modifyTenancy i (Tenancy.demanded remaining)).tenancy j = s.tenancy j := by
    simp [State.modifyTenancy_tenancy, Ne.symm ne]
  rcases s.demandOn_cases tag claimant i with ⟨same, -⟩ | ⟨u, remaining, demand, -, -, -, ⟨-, e⟩ | ⟨-, e⟩⟩
  · rw [same]
  · rw [e, demanded]
  · rw [e, State.raiseLease_other ne, demanded]

theorem State.demandOn_stays {tag : Tag} {claimant : StationNo} {s : State} {i : EntryIx} {u : Tenancy}
    (h : s.tenancy i = some u) (other : u.tag ≠ tag ∨ u.isHeld = false) : State.demandOn tag claimant s i = s :=
  (s.demandOn_demanded tag claimant i).1 fun v hv => by
    obtain rfl := Option.some.inj (h.symm.trans hv); exact other

theorem State.demandOn_held {tag : Tag} {claimant : StationNo} {s : State} {i : EntryIx} {u : Tenancy} {remaining : Nat}
    {demand : Bool} (h : s.tenancy i = some u) (on : u.tag = tag) (hs : u.state = .held remaining demand) :
    ∃ d, (State.demandOn tag claimant s i).tenancy i = some { u.demanded remaining with deferred := d } ∧
      (u.contendedNotified = true → d = u.deferred) := by
  obtain ⟨before, first⟩ := (s.demandOn_demanded tag claimant i).2 u remaining demand _ h on hs rfl
  have demanded : (s.modifyTenancy i (Tenancy.demanded remaining)).tenancy i = some (u.demanded remaining) := by simp [h]
  cases notified : u.contendedNotified with
  | true =>
    rw [before notified]
    exact ⟨u.deferred, demanded, fun _ => rfl⟩
  | false =>
    rw [first notified]
    obtain ⟨d, raised, -⟩ :=
      (s.modifyTenancy i (Tenancy.demanded remaining)).raiseLease_tenancy i i (.contended claimant) {}
    refine ⟨d, raised.trans ?_, fun e => by cases e⟩
    rw [demanded, Option.map_some, if_pos rfl]

/-! ### The owners that the demand notifies (R30, R132) -/

/-- The demand raises CONTENDED to this channel for this entry. -/
def State.notifies (s : State) (tag : Tag) (ch : Channel) : EntryIx → Bool :=
  s.entryMeets fun u => u.tag == tag && u.isHeld && u.owner == ch && !u.contendedNotified

/-- CONTENDED with the claimant, as the demand raises it for this entry. -/
def State.contendedNotice (s : State) (tag : Tag) (claimant : StationNo) (i : EntryIx) : EventRecord :=
  .lease { kind := .contended claimant, timestamp := s.station.timestamp, index := i, generation := (s.entry i).generation,
           tag := tag, marks := {} }

theorem State.notifies_iff {s : State} {tag : Tag} {ch : Channel} {i : EntryIx} :
    s.notifies tag ch i = true ↔
      ∃ u, s.tenancy i = some u ∧ u.tag = tag ∧ u.isHeld = true ∧ u.owner = ch ∧ u.contendedNotified = false := by
  simp [State.notifies, State.entryMeets_iff, and_assoc]

/-- A notice to a channel with room joins its queue. -/
theorem State.demandOn_notifies {tag : Tag} {claimant : StationNo} {s : State} {i : EntryIx} {ch : Channel}
    (h : s.notifies tag ch i = true) (room : s.RoomAt ch) :
    (State.demandOn tag claimant s i).channel ch =
      { s.channel ch with queue := (s.channel ch).queue ++ [s.contendedNotice tag claimant i] } := by
  obtain ⟨u, hu, rfl, held, rfl, first⟩ := State.notifies_iff.1 h
  obtain ⟨remaining, demand, hs⟩ := Tenancy.isHeld_iff.1 held
  rw [((s.demandOn_demanded u.tag claimant i).2 u remaining demand _ hu rfl hs rfl).2 first]
  have demanded : (s.modifyTenancy i (Tenancy.demanded remaining)).tenancy i = some (u.demanded remaining) := by
    simp [hu]
  refine (congrArg (State.channel · u.owner) (State.raiseLease_queued demanded room (.contended claimant) {})).trans ?_
  rw [State.modifyChannel_channel, if_pos (show (u.demanded remaining).owner = u.owner from rfl)]
  simp [State.noticeOf, State.contendedNotice, Tenancy.demanded]

theorem State.demandOn_quiet {tag : Tag} {claimant : StationNo} {s : State} {i : EntryIx} {ch : Channel}
    (h : s.notifies tag ch i = false) : (State.demandOn tag claimant s i).channel ch = s.channel ch := by
  rcases s.demandOn_cases tag claimant i with ⟨same, -⟩ | ⟨u, remaining, demand, hu, on, hs, ⟨-, e⟩ | ⟨first, e⟩⟩
  · rw [same]
  · rw [e]; rfl
  · have owner : u.owner ≠ ch := fun o => by
      have notifies := State.notifies_iff.2 ⟨u, hu, on, Tenancy.isHeld_iff.2 ⟨_, _, hs⟩, o, first⟩
      rw [h] at notifies; cases notifies
    have demanded : (s.modifyTenancy i (Tenancy.demanded remaining)).tenancy i = some (u.demanded remaining) := by
      simp [hu]
    rw [e, State.raiseLease_channel demanded owner]
    rfl

/-! ### The entries one after the other -/

/-- Where each event touches its own entry alone, an entry of the list is treated once, as it stood. -/
theorem State.foldl_tenancy {f : State → EntryIx → State} (own : ∀ s i j, j ≠ i → (f s i).tenancy j = s.tenancy j)
    {l : List EntryIx} (once : l.Nodup) (s : State) {i : EntryIx} (m : i ∈ l) :
    ∃ r, r.tenancy i = s.tenancy i ∧ (l.foldl f s).tenancy i = (f r i).tenancy i := by
  have untouched (l : List EntryIx) (s : State) (absent : i ∉ l) : (l.foldl f s).tenancy i = s.tenancy i := by
    induction l generalizing s with
    | nil => rfl
    | cons j l ih =>
      simp only [List.mem_cons, not_or] at absent
      rw [List.foldl_cons, ih _ absent.2, own s j i absent.1]
  induction l generalizing s with
  | nil => cases m
  | cons j l ih =>
    obtain ⟨absent, once⟩ := List.nodup_cons.1 once
    rw [List.foldl_cons]
    by_cases e : i = j
    · subst e; exact ⟨s, rfl, untouched l _ absent⟩
    · obtain ⟨r, hr, after⟩ := ih once (f s j) ((List.mem_cons.1 m).resolve_left e)
      exact ⟨r, hr.trans (own s j i e), after⟩

/-- The notices to a channel with room for all of them, in the order of the entries. -/
theorem State.demands_queue (tag : Tag) (claimant : StationNo) (ch : Channel) {l : List EntryIx} (once : l.Nodup) (s : State)
    (list : (s.channel ch).deferral = [])
    (room : (s.channel ch).queue.length + (l.filter (s.notifies tag ch)).length ≤ 24) :
    ((l.foldl (State.demandOn tag claimant) s).channel ch).queue =
        (s.channel ch).queue ++ (l.filter (s.notifies tag ch)).map (s.contendedNotice tag claimant) ∧
      ((l.foldl (State.demandOn tag claimant) s).channel ch).deferral = [] := by
  induction l generalizing s with
  | nil => exact ⟨by simp, list⟩
  | cons i l ih =>
    obtain ⟨absent, once⟩ := List.nodup_cons.1 once
    have work := State.demandOn_work tag claimant s i
    have notices : (State.demandOn tag claimant s i).contendedNotice tag claimant = s.contendedNotice tag claimant := by
      funext j; simp only [State.contendedNotice, work.station, work.generation]
    have rest : l.filter ((State.demandOn tag claimant s i).notifies tag ch) = l.filter (s.notifies tag ch) :=
      List.filter_congr fun j m => by
        have ne : j ≠ i := fun e => absent (e ▸ m)
        simp only [State.notifies, State.entryMeets, State.demandOn_other tag claimant s ne]
    have following := ih once (State.demandOn tag claimant s i)
    rw [rest, notices] at following
    rw [List.foldl_cons]
    cases here : s.notifies tag ch i with
    | false =>
      rw [List.filter_cons_of_neg (by simp [here])] at room ⊢
      rw [State.demandOn_quiet here] at following
      exact following list room
    | true =>
      rw [List.filter_cons_of_pos here] at room ⊢
      rw [List.length_cons] at room
      rw [State.demandOn_notifies here ⟨by omega, list⟩] at following
      obtain ⟨queue, deferral⟩ := following list (by simp only [List.length_append, List.length_singleton]; omega)
      exact ⟨by rw [queue, List.map_cons, List.append_assoc, List.singleton_append], deferral⟩

/-- Settles O52: entry by entry, each of which the demand treats as it stood before. -/
theorem holderDemandsOnEveryLease : Obligations.HolderDemandsOnEveryLease := by
  intro s t tag claimant ht
  have once : allIx.Nodup := List.nodup_finRange 64
  have treated (i : EntryIx) : ∃ r, r.tenancy i = s.tenancy i ∧ t.tenancy i = (State.demandOn tag claimant r i).tenancy i :=
    ht ▸ State.foldl_tenancy (fun s i j ne => State.demandOn_other tag claimant s ne) once s (List.mem_finRange i)
  refine ⟨⟨s.treated (State.demandOn tag claimant), rfl, ?_, fun i => ?_⟩, fun i u h other => ?_,
    fun i u remaining demand h on hs => ?_, fun ch notified list hn room => ?_⟩
  · rw [ht, State.treated_all]
  · rw [State.treated_succ]; exact State.demandOn_demanded _ _ _ _
  · obtain ⟨r, hr, after⟩ := treated i
    exact after.trans ((congrArg (State.tenancy · i) (State.demandOn_stays (hr.trans h) other)).trans (hr.trans h))
  · obtain ⟨r, hr, after⟩ := treated i
    obtain ⟨d, demanded, slot⟩ := State.demandOn_held (claimant := claimant) (hr.trans h) on hs
    exact ⟨d, after.trans demanded, slot⟩
  · rw [ht, hn]
    rw [hn] at room
    exact State.demands_queue tag claimant ch once s list room

end Sys2Proof.Machine

namespace Sys2Proof.Machine

/-! ### What an intact frame's words are (R74 to R78) -/

/-- The words after the header of a frame with this kind. -/
theorem parseBody_cases {kind : BitVec 2} {low : Byte} {rest : List Word} {body : FrameBody}
    (h : parseBody kind low rest = some body) :
    (kind = 0b01 ∧ ∃ w3 w4 c, rest = [w3, w4, c] ∧ parseClaim low w3 w4 = some body) ∨
      (kind = 0b10 ∧ ∃ w3 c, rest = [w3, c] ∧ body = .release (low ++ w3)) ∨
      (kind = 0b11 ∧ ∃ count members, rest = count :: members ∧ parseCensus count members = some body) := by
  unfold parseBody at h
  split at h
  · next kind =>
    split at h
    · exact .inl ⟨kind, _, _, _, rfl, h⟩
    · cases h
  · split at h
    · next kind =>
      split at h
      · exact .inr (.inl ⟨kind, _, _, rfl, (Option.some.inj h).symm⟩)
      · cases h
    · split at h
      · next kind =>
        split at h
        · exact .inr (.inr ⟨kind, _, _, rfl, h⟩)
        · cases h
      · cases h

theorem parseClaim_iff {low : Byte} {w3 w4 : Word} {tag : Tag} {m : Mode} {standing : BitVec 4} {held yield : Bool}
    {objector : Option StationNo} :
    parseClaim low w3 w4 = some (.claim tag m standing held yield objector) ↔
      low ++ w3 = tag ∧ (if w4.getLsbD 15 then Mode.exclusive else .shared) = m ∧ w4.extractLsb' 11 4 = standing ∧
        w4.getLsbD 10 = held ∧ w4.getLsbD 9 = yield ∧ w4.getLsbD 6 = (held || yield) ∧
        (if w4.getLsbD 6 then some (w4.extractLsb' 0 6) else none) = objector := by
  unfold parseClaim
  dsimp only
  split
  · next agree =>
    rw [Option.some.injEq, FrameBody.claim.injEq]
    refine and_congr_right fun _ => and_congr_right fun _ => and_congr_right fun _ => and_congr_right fun hheld =>
      and_congr_right fun hyield => ?_
    rw [hheld, hyield] at agree
    exact (and_iff_right agree).symm
  · next agree =>
    refine iff_of_false (fun h => by cases h) fun ⟨_, _, _, hheld, hyield, present, _⟩ => agree ?_
    rw [present, hheld, hyield]

theorem parseClaim_kind {low : Byte} {w3 w4 : Word} {body : FrameBody} (h : parseClaim low w3 w4 = some body) :
    ∃ tag m standing held yield objector, body = .claim tag m standing held yield objector := by
  unfold parseClaim at h
  dsimp only at h
  split at h
  · exact ⟨_, _, _, _, _, _, (Option.some.inj h).symm⟩
  · cases h

theorem parseCensus_iff {count : Word} {rest : List Word} {body : FrameBody} :
    parseCensus count rest = some body ↔ ∃ ms, parseMembers rest = some ms ∧ (count.extractLsb' 0 7).toNat = ms.length ∧
      1 ≤ ms.length ∧ ms.length ≤ 64 ∧ body = .census ms := by
  unfold parseCensus
  cases members : parseMembers rest with
  | none => simp
  | some ms =>
    simp only [Option.some.injEq, exists_eq_left', Config.censusCapacity, Option.ite_none_right_eq_some, and_assoc]
    simp only [eq_comm (b := body)]

/-! ### A forwarded frame (R83) -/

/-- With the header kept and the contents read back, the frame is intact with its hop count one higher. -/
theorem parseFrame_forwardWords {w0 w1 w2 : Word} {rest contents : List Word} {f : Frame} {body : FrameBody}
    {change : List Word → List Word} (h : parseFrame (w0 :: w1 :: w2 :: rest) = some f) (closed : rest ≠ [])
    (changed : change (w0 :: w1 :: w2 :: rest.dropLast) = w0 :: w1 :: w2 :: contents)
    (reads : ∀ c, parseBody (w0.extractLsb' 14 2) (w2.extractLsb' 0 8) (contents ++ [c]) = some body) :
    parseFrame (forwardWords (w0 :: w1 :: w2 :: rest) change) = some { f with hop := f.hop + 1, body := body } := by
  have words : forwardWords (w0 :: w1 :: w2 :: rest) change =
      bumpHop w0 :: w1 :: w2 :: (contents ++ [crc16 (bumpHop w0 :: w1 :: w2 :: contents)]) := by
    have header : (w0 :: w1 :: w2 :: rest).dropLast = w0 :: w1 :: w2 :: rest.dropLast := by
      simp only [List.dropLast_cons_of_ne_nil, ne_eq, closed, not_false_eq_true, reduceCtorEq]
    rw [forwardWords, header, changed]
    rfl
  have crc : crcMatches (bumpHop w0 :: w1 :: w2 :: (contents ++ [crc16 (bumpHop w0 :: w1 :: w2 :: contents)])) = true :=
    crcMatches_withCrc (bumpHop w0 :: w1 :: w2 :: contents)
  obtain ⟨kind, source, hop⟩ := bumpHop_fields w0
  rw [words, parseFrame_cons, if_pos crc, kind, source, hop, reads]
  rw [parseFrame_cons] at h
  split at h
  · obtain ⟨body', -, rfl⟩ := Option.map_eq_some_iff.1 h
    rfl
  · cases h

/-- The words of an intact frame, with what they say of its contents. -/
theorem parseFrame_words {ws : List Word} {f : Frame} (h : parseFrame ws = some f) :
    ∃ w0 w1 w2 rest, ws = w0 :: w1 :: w2 :: rest ∧
      parseBody (w0.extractLsb' 14 2) (w2.extractLsb' 0 8) rest = some f.body := by
  match ws, h with
  | w0 :: w1 :: w2 :: rest, h =>
    rw [parseFrame_cons] at h
    split at h
    · obtain ⟨body, reads, rfl⟩ := Option.map_eq_some_iff.1 h
      exact ⟨w0, w1, w2, rest, rfl, reads⟩
    · cases h

/-- The marks and the objector that the Lease Table left are read back, and the rest of the claim with them (R28, R33). -/
theorem parseClaim_markWord {low : Byte} {w3 w4 : Word} {tag : Tag} {m : Mode} {standing : BitVec 4} {held yield : Bool}
    {objector : Option StationNo} (h : parseClaim low w3 w4 = some (.claim tag m standing held yield objector))
    {held' yield' : Bool} {objector' : Option StationNo} (kept : ∀ n, objector = some n → objector' = some n)
    (agree : objector'.isSome = (held' || yield')) :
    parseClaim low w3 (markWord w4 held' yield' objector') = some (.claim tag m standing held' yield' objector') := by
  obtain ⟨htag, hmode, hstanding, hheld, hyield, hpresent, hobjector⟩ := parseClaim_iff.1 h
  rw [parseClaim_iff]
  cases objector' with
  | none =>
    have absent : objector = none := by
      cases objector with
      | none => rfl
      | some n => cases kept n rfl
    have unmarked : w4.getLsbD 6 = false := by
      rw [absent] at hobjector
      split at hobjector
      · cases hobjector
      · next present => simpa using present
    have marks' : held' = false ∧ yield' = false := by simpa using agree.symm
    have marks : held = false ∧ yield = false := by
      rw [unmarked] at hpresent; simpa using hpresent.symm
    obtain ⟨rfl, rfl⟩ := marks
    obtain ⟨rfl, rfl⟩ := marks'
    exact ⟨htag, hmode, hstanding, hheld, hyield, unmarked, hobjector.trans absent⟩
  | some n =>
    obtain ⟨b15, b11, b10, b9, b6, b0⟩ := markWord_fields w4 held' yield' n
    rw [b15, b11, b10, b9, b6, b0]
    exact ⟨htag, hmode, hstanding, rfl, rfl, agree, rfl⟩

/-- A census with one entry more is read back with its count (R84). -/
theorem parseCensus_append {count : Word} {rest : List Word} {members : List Member}
    (h : parseCensus count rest = some (.census members)) (room : members.length < 64) {m : Member} (identity : m.identity ≠ 0)
    (c : Word) :
    parseCensus (countWord count (members.length + 1)) (rest.dropLast ++ m.words ++ [c]) =
      some (.census (members ++ [m])) := by
  obtain ⟨ms, reads, -, -, -, e⟩ := parseCensus_iff.1 h
  cases e
  refine parseCensus_iff.2 ⟨_, parseMembers_append m c identity reads, ?_, ?_, ?_, rfl⟩
  · rw [countWord_field, BitVec.toNat_ofNat, List.length_append, List.length_singleton]
    omega
  all_goals rw [List.length_append, List.length_singleton]; omega

/-- Settles O9: kind by kind, the contents are read back behind the header. -/
theorem forwardedFramesAreIntact : Obligations.ForwardedFramesAreIntact := by
  intro ws f h _
  obtain ⟨w0, w1, w2, rest, rfl, reads⟩ := parseFrame_words h
  refine ⟨fun tag m standing held yield objector held' yield' objector' body _ _ kept agree => ?_, fun tag body => ?_,
    fun members m body room identity => ?_⟩
  · rw [body] at reads
    rcases parseBody_cases reads with ⟨kind, w3, w4, c, rfl, claim⟩ | ⟨-, w3, c, -, e⟩ | ⟨-, count, list, -, census⟩
    · refine parseFrame_forwardWords h (by simp) (contents := [w3, markWord w4 held' yield' objector']) rfl fun c => ?_
      rw [kind]
      exact parseClaim_markWord claim kept agree
    · cases e
    · obtain ⟨_, _, _, _, _, e⟩ := parseCensus_iff.1 census
      cases e
  · rw [body] at reads
    rcases parseBody_cases reads with ⟨-, w3, w4, c, -, claim⟩ | ⟨kind, w3, c, rfl, e⟩ | ⟨-, count, list, -, census⟩
    · obtain ⟨_, _, _, _, _, _, e⟩ := parseClaim_kind claim
      cases e
    · refine parseFrame_forwardWords h (by simp) (contents := [w3]) rfl fun c => ?_
      rw [kind, e]
      rfl
    · obtain ⟨_, _, _, _, _, e⟩ := parseCensus_iff.1 census
      cases e
  · rw [body] at reads
    rcases parseBody_cases reads with ⟨-, w3, w4, c, -, claim⟩ | ⟨-, w3, c, -, e⟩ | ⟨kind, count, list, rfl, census⟩
    · obtain ⟨_, _, _, _, _, _, e⟩ := parseClaim_kind claim
      cases e
    · cases e
    · have closed : list ≠ [] := by
        rintro rfl
        obtain ⟨_, none, _⟩ := parseCensus_iff.1 census
        cases none
      refine parseFrame_forwardWords h (by simp)
        (contents := countWord count (members.length + 1) :: (list.dropLast ++ m.words)) ?_ fun c => ?_
      · rw [List.dropLast_cons_of_ne_nil closed]
        rfl
      · rw [kind]
        exact parseCensus_append census room identity c

end Sys2Proof.Machine

namespace Sys2Proof.Machine

/-! ### The release procedure to its end (R21, R57 to R60) -/

/-- Whether another entry holds the tag is not a matter of the entry that leaves (R57). -/
theorem State.Turns.lastHolder_iff {s u : State} {i : EntryIx} {v : Tenancy} {x : Option Tenancy} (h : s.Turns u i v x)
    (tag : Tag) : u.LastHolder i tag ↔ s.LastHolder i tag :=
  ⟨fun last j w ne hw => last j w ne ((h.others j ne).trans hw),
    fun last j w ne hw => last j w ne ((h.others j ne).symm.trans hw)⟩

/-- An entry whose slot alone changes leaves the wait lists as they are. -/
theorem State.Turns.waitList_slot {s u : State} {i : EntryIx} {v : Tenancy} {n : Option LeaseNotice}
    (h : s.Turns u i v (some { v with deferred := n })) (waiting : u.lease.waiting = s.lease.waiting) (tag : Tag) :
    u.waitList tag = s.waitList tag :=
  State.waitList_same waiting (fun j => by
    by_cases e : j = i
    · rw [e, h.after, h.before]; rfl
    · rw [h.others j e]) tag

/-- An entry that waits is another than one that is HELD (R16). -/
theorem State.ne_of_mem_waitList {s : State} {i j : EntryIx} {v : Tenancy} {tag : Tag} (h : s.tenancy i = some v)
    (held : v.isHeld = true) (waits : j ∈ s.waitList tag) : j ≠ i := by
  rintro rfl
  exact State.not_mem_waitList_of_held h held tag waits

/-- The end of a HELD entry leaves the wait lists as they are, for it stood in none (R16). -/
theorem State.waitList_of_held_ended {s : State} {i : EntryIx} {v : Tenancy} (h : s.tenancy i = some v) (held : v.isHeld = true)
    (tag : Tag) : ((s.detach i).endTenancy i).waitList tag = s.waitList tag := by
  have waiting : ((s.detach i).endTenancy i).lease.waiting = s.lease.waiting.filter (· != i) := by simp [State.detach]
  rw [State.waitList_tail waiting (State.turns_detach_endTenancy h).others]
  exact List.filter_eq_self.2 fun j waits => by simpa using State.ne_of_mem_waitList h held waits

/-- How the tag of a HELD tenancy passes on, in the words of R57 to R60, its conditions read in one state: `ended` is the block
once the tenancy has ended, `rings` with the entry RELEASING, and `result` the block after the examination. -/
structure State.PassesOn (s : State) (i : EntryIx) (t : Tenancy) (demand : Bool) (ended rings result : State) : Prop where
  beside : ¬ s.LastHolder i t.tag → result = ended.examine t.tag
  handsOn : ∀ j rest w, s.LastHolder i t.tag → t.mode = .exclusive → demand = false → s.waitList t.tag = j :: rest →
    s.tenancy j = some w → result =
      (((ended.setWaiting (ended.lease.waiting.filter (· ≠ j))).modifyTenancy j fun u =>
        { u with state := .held u.term false, contendedNotified := false, expiringNotified := false }).raiseLease j
        (.granted w.mode) { handedOn := true }).examine t.tag
  toTheRing : s.LastHolder i t.tag → t.mode = .shared ∨ demand = true ∨ s.waitList t.tag = [] → s.lease.taken = .up →
    result = rings
  noFrame : s.LastHolder i t.tag → t.mode = .shared ∨ demand = true ∨ s.waitList t.tag = [] → s.lease.taken ≠ .up →
    result = ended.examine t.tag

/-- The RELEASING entry blocks its tag, so the examination behind it changes nothing (R22, R59). -/
theorem State.toTheRing_examine {s : State} {i : EntryIx} {v : Tenancy} (h : s.tenancy i = some v) :
    (s.toTheRing i).examine v.tag = s.toTheRing i :=
  State.examine_blocked ⟨i, _, (State.toTheRing_tenancy h i).trans (if_pos rfl), rfl, rfl⟩

/-- The release procedure decides so. -/
theorem State.releaseHeld_passesOn {s : State} {i : EntryIx} {t : Tenancy} {remaining : Nat} {demand : Bool}
    (h : s.tenancy i = some t) (hs : t.state = .held remaining demand) :
    s.PassesOn i t demand ((s.detach i).endTenancy i) (s.toTheRing i) (s.releaseHeld i t.tag) := by
  obtain ⟨beside, handsOn, last⟩ := s.passing_eq i t.tag t.mode demand
  have left := State.leaveHeld_eq h hs
  refine ⟨fun other => ?_, fun j rest w only exclusive quiet list waiter => ?_, fun only keeps up => ?_,
    fun only keeps down => ?_⟩
  · rw [beside other] at left
    simp only [State.releaseHeld, left, State.examineAfter, Bool.false_eq_true, if_false]
  · rw [handsOn j rest only exclusive quiet list] at left
    have held := Tenancy.isHeld_iff.2 ⟨_, _, hs⟩
    have other : j ≠ i := State.ne_of_mem_waitList h held (list ▸ List.mem_cons_self)
    have handed := State.handOn_eq ((State.waitList_of_held_ended h held t.tag).trans list)
      (((State.turns_detach_endTenancy h).others j other).trans waiter)
    simp only [State.releaseHeld, left, State.examineAfter, if_true, handed]
  · rw [last only keeps, if_pos up] at left
    simp only [State.releaseHeld, left, State.examineAfter, Bool.false_eq_true, if_false, State.toTheRing_examine h]
  · rw [last only keeps, if_neg down] at left
    simp only [State.releaseHeld, left, State.examineAfter, Bool.false_eq_true, if_false]

/-- The conditions may be read before a change of the entry's slot (R54, R67). -/
theorem State.Turns.releaseHeld_passesOn {s u : State} {i : EntryIx} {t : Tenancy} {n : Option LeaseNotice} {remaining : Nat}
    {demand : Bool} (h : s.Turns u i t (some { t with deferred := n })) (waiting : u.lease.waiting = s.lease.waiting)
    (taken : u.lease.taken = s.lease.taken) (hs : t.state = .held remaining demand) :
    s.PassesOn i t demand ((u.detach i).endTenancy i) (u.toTheRing i) (u.releaseHeld i t.tag) := by
  obtain ⟨beside, handsOn, toTheRing, noFrame⟩ := State.releaseHeld_passesOn (t := { t with deferred := n }) h.after hs
  simp only [h.lastHolder_iff, h.waitList_slot waiting, taken] at beside handsOn toTheRing noFrame
  refine ⟨beside, fun j rest w only exclusive quiet list waiter => ?_, toTheRing, noFrame⟩
  have other : j ≠ i :=
    State.ne_of_mem_waitList h.before (Tenancy.isHeld_iff.2 ⟨_, _, hs⟩) (list ▸ List.mem_cons_self)
  exact handsOn j rest w only exclusive quiet list ((h.others j other).trans waiter)

end Sys2Proof.Machine

namespace Sys2Proof.Machine

open Host.Outcome

/-! ### RELEASE and RENEW of a lease (R55, R67) -/

/-- Settles O30: the discarded notice leaves the slot empty, and the release procedure passes the tag on. -/
theorem releaseOfALease : Obligations.ReleaseOfALease := by
  intro s d ch echo index generation i t remaining demand high names hs hd
  have turns := State.turns_discardDeferred names.2.1
  have freed : ((s.discardDeferred i).detach i).endTenancy i = (s.discardDeferred i).freed i := by
    rw [State.endTenancy_freed (State.detach_tenancy turns.after) rfl, State.detach_freed]
  obtain ⟨beside, handsOn, toTheRing, noFrame⟩ :=
    turns.releaseHeld_passesOn (s.discardDeferred_waiting i) (s.discardDeferred_work i).taken hs
  rw [freed, ← hd] at beside handsOn noFrame
  rw [← hd] at toTheRing
  have released : exec (.release ch echo index generation) s =
      next ((d.releaseHeld i t.tag).answer ch 0x11 echo .ok (.state .held)) := by
    rw [State.execRelease_found high names, ← hd]
    simp only [State.releaseEntry, hs, EntryState.name]
  rw [released]
  exact ⟨fun other => by rw [beside other],
    fun j rest w only exclusive quiet list waiter => by rw [handsOn j rest w only exclusive quiet list waiter],
    fun only keeps => ⟨fun up => by rw [toTheRing only keeps up], fun down => by rw [noFrame only keeps down]⟩⟩

/-- RENEW of the entry named: the term is checked before the state (R55). -/
theorem State.execRenew_found {s : State} {ch : Channel} {index generation : Byte} {i : EntryIx} {t : Tenancy}
    (high : s.rstnLow = false) (names : s.Names ch index generation i t) (echo : Byte) (term : Word) :
    exec (.renew ch echo index generation term) s = next
      (if renewTermInRange (s.limits ch) term.toNat = false then s.answer ch 0x12 echo .badArgument .nothing
      else if t.isHeld then
        (s.modifyTenancy i (Tenancy.renew term.toNat)).answer ch 0x12 echo .ok
          (.renewed (renewedTerm t term.toNat) (renewedTerm t term.toNat))
      else s.answer ch 0x12 echo .wrongState (.state t.state.name)) :=
  congrArg next (State.handleCommand_found high names ..)

/-- Settles O31: handle, term and state are checked in this order. -/
theorem renewRestartsTheTerm : Obligations.RenewRestartsTheTerm := by
  intro s ch echo index generation term high
  refine ⟨fun bad => congrArg next (State.handleCommand_bad high bad ..),
    fun gone => congrArg next (State.handleCommand_gone high gone ..), fun i t names => ?_⟩
  have inRange : renewTermInRange (s.limits ch) term.toNat = false ↔ (s.limits ch).maxTerm < term.toNat := by
    simp [renewTermInRange]
  rw [State.execRenew_found high names]
  refine ⟨fun above => by rw [if_pos (inRange.2 above)], fun within free => ?_, fun remaining demand n within hs hn => ?_⟩
  · have unheld : ¬ t.isHeld = true := fun held => by
      obtain ⟨remaining, demand, hs⟩ := Tenancy.isHeld_iff.1 held
      exact free remaining demand hs
    rw [if_neg (mt inRange.1 (Nat.not_lt.2 within)), if_neg unheld]
  · have renewed : Tenancy.renew term.toNat t = { t with term := n, state := .held n demand, expiringNotified := false } := by
      simp only [Tenancy.renew, hs, hn, renewedTerm]
    have replaced := State.modifyTenancy_congr names.2.1 (f := Tenancy.renew term.toNat)
      (g := ({ · with term := n, state := .held n demand, expiringNotified := false })) renewed
    have length : renewedTerm t term.toNat = n := hn.symm
    rw [if_neg (mt inRange.1 (Nat.not_lt.2 within)), if_pos (Tenancy.isHeld_iff.2 ⟨_, _, hs⟩), replaced, length]

end Sys2Proof.Machine

namespace Sys2Proof.Machine

open Host.Outcome

/-! ### The term timer (R52 to R54) -/

theorem warningDue_iff {margin remaining : Nat} {t : Tenancy} :
    warningDue margin remaining t = true ↔
      margin ≠ 0 ∧ remaining ≤ margin ∧ 0 < remaining ∧ t.expiringNotified = false := by
  simp [warningDue, and_assoc]

theorem State.termTick_eq {s : State} {i : EntryIx} {t : Tenancy} {k : Nat} {demand : Bool} (h : s.tenancy i = some t)
    (hs : t.state = .held (k + 1) demand) :
    exec (.termTick i) s = next
      (if warningDue s.config.settings.warningMargin k t then
        (s.modifyTenancy i ({ · with state := .held k demand, expiringNotified := true })).raiseLease i (.expiring k) {}
      else s.modifyTenancy i ({ · with state := .held k demand })) := by
  simp only [exec, execTermTick, h, hs]

theorem State.termExpiry_eq {s : State} {i : EntryIx} {t : Tenancy} {demand : Bool} (h : s.tenancy i = some t)
    (hs : t.state = .held 0 demand) :
    exec (.termExpiry i) s = next ((s.raiseLease i .expired {}).releaseHeld i t.tag) := by
  simp only [exec, execTermExpiry, h, hs]

/-- A notice raised changes at most the slot of its entry (R132). -/
theorem State.turns_raiseLease {s : State} {i : EntryIx} {v : Tenancy} (h : s.tenancy i = some v) (kind : LeaseKind)
    (marks : Marks) : ∃ n, s.Turns (s.raiseLease i kind marks) i v (some { v with deferred := n }) := by
  obtain ⟨n, here, -⟩ := s.raiseLease_tenancy i i kind marks
  refine ⟨n, h, by rw [here, h]; simp, fun j ne => ?_, (s.raiseLease_work i kind marks).config⟩
  obtain ⟨m, there, -⟩ := s.raiseLease_tenancy i j kind marks
  rw [there]
  simp [ne]

/-- Settles O58: the warning is due or it is not; at 0 the release procedure passes the tag on behind EXPIRED. -/
theorem termTicksWarnAndExpire : Obligations.TermTicksWarnAndExpire := by
  intro s i t demand h
  refine ⟨fun k margin hs hm => ?_, fun e d hs he hd => ?_⟩
  · rw [State.termTick_eq h hs, ← hm]
    refine ⟨fun on reached left new => by rw [if_pos (warningDue_iff.2 ⟨on, reached, left, new⟩)], fun not_due => ?_⟩
    have silent : ¬ warningDue margin k t = true := by
      rw [warningDue_iff]
      rintro ⟨on, reached, left, new⟩
      rcases not_due with off | early | out | told
      · exact on off
      · omega
      · omega
      · rw [new] at told; cases told
    rw [if_neg silent]
  · obtain ⟨n, turns⟩ := State.turns_raiseLease h .expired {}
    obtain ⟨beside, handsOn, toTheRing, noFrame⟩ :=
      turns.releaseHeld_passesOn (s.raiseLease_waiting i .expired {}) (s.raiseLease_work i .expired {}).taken hs
    have ended : (e.detach i).endTenancy i = d := hd.symm
    rw [← he, ended] at beside handsOn noFrame
    rw [← he] at toTheRing
    rw [State.termExpiry_eq h hs, ← he]
    exact ⟨fun other => by rw [beside other],
      fun j rest w only exclusive quiet list waiter => by rw [handsOn j rest w only exclusive quiet list waiter],
      fun only keeps => ⟨fun up => by rw [toTheRing only keeps up], fun down => by rw [noFrame only keeps down]⟩⟩

end Sys2Proof.Machine

namespace Sys2Proof.Machine

open Host.Outcome

/-! ### An own RELEASE coming home (R64) -/

theorem Tenancy.releaseInFlight_iff {v : Tenancy} {serial : Byte} {tag : Tag} :
    v.releaseInFlight serial tag = true ↔ v.tag = tag ∧ ∃ circuit, v.state = .releasing (.inFlight serial circuit) := by
  unfold Tenancy.releaseInFlight
  split
  · next serial' circuit hs =>
    simp only [Bool.and_eq_true, beq_iff_eq, hs, EntryState.releasing.injEq, FramePhase.inFlight.injEq]
    exact ⟨fun ⟨same, on⟩ => ⟨on, circuit, same.symm, rfl⟩, fun ⟨on, _, same, _⟩ => ⟨same.symm, on⟩⟩
  all_goals next hs => simp [hs]

/-- An entry that is not RELEASING in flight with this serial and tag is not found. -/
theorem Tenancy.releaseInFlight_not {v : Tenancy} {serial : Byte} {tag : Tag}
    (h : v.tag = tag → ∀ circuit, v.state ≠ .releasing (.inFlight serial circuit)) :
    v.releaseInFlight serial tag = false := by
  rw [Bool.eq_false_iff, ne_eq, Tenancy.releaseInFlight_iff]
  exact fun ⟨on, circuit, flies⟩ => h on circuit flies

theorem State.releaseReturn_unmatched {s : State} {serial : Byte} {tag : Tag}
    (h : ∀ i t circuit, s.tenancy i = some t → t.tag = tag → t.state ≠ .releasing (.inFlight serial circuit)) :
    s.releaseReturn serial tag = s := by
  have none : allIx.find? (s.entryMeets (Tenancy.releaseInFlight serial tag)) = none :=
    State.find_none fun i t ht => Tenancy.releaseInFlight_not fun on circuit => h i t circuit ht on
  simp only [State.releaseReturn, none]

theorem State.releaseReturn_matched {s : State} {serial : Byte} {tag : Tag} {i : EntryIx} {t : Tenancy} {circuit : Nat}
    (h : s.tenancy i = some t) (on : t.tag = tag) (flies : t.state = .releasing (.inFlight serial circuit))
    (alone : ∀ j u c, j ≠ i → s.tenancy j = some u → u.tag = tag → u.state ≠ .releasing (.inFlight serial c)) :
    s.releaseReturn serial tag = (s.endTenancy i).examine tag := by
  have found : allIx.find? (s.entryMeets (Tenancy.releaseInFlight serial tag)) = some i :=
    State.find_only h (Tenancy.releaseInFlight_iff.2 ⟨on, circuit, flies⟩) fun j u ne hu =>
      Tenancy.releaseInFlight_not fun g c => alone j u c ne hu g
  simp only [State.releaseReturn, found, State.endAndExamine]

/-! ### An own CENSUS coming home (R111, R112, R120) -/

/-- Within its range the circuit time is the difference of the two readings (R111). -/
theorem circuitTime_of_range {origin now : Nat} (least : 1 ≤ now - origin) (most : now - origin ≤ 255000) :
    circuitTime origin now = now - origin := by
  rw [circuitTime, Nat.min_eq_right most, Nat.max_eq_right least]

theorem State.censusReturn_unmatched {s : State} {serial : Byte}
    (h : ∀ origin circuit, s.station.census ≠ .inFlight serial origin circuit) (members : List Member) :
    s.censusReturn serial members = s := by
  unfold State.censusReturn
  split
  · next serial' origin circuit flies =>
    rw [if_neg]
    rintro rfl
    exact h origin circuit flies
  all_goals rfl

theorem State.censusReturn_matched {s s1 : State} {serial : Byte} {origin circuit : Nat}
    (h : s.station.census = .inFlight serial origin circuit) (least : 1 ≤ s.time.micros - origin)
    (most : s.time.micros - origin ≤ 255000)
    (hs1 : s1 = s.modifyStation ({ · with census := .none, lastCircuit := s.time.micros - origin }))
    (members : List Member) :
    s.censusReturn serial members =
      if s1.listsDuplicate members.tail then s1.enterHalted else s1.adoptCensus members := by
  simp only [State.censusReturn, h, circuitTime_of_range least most, if_true, hs1]

/-- The adoption of a census list by station state (R112). -/
theorem State.adoptCensus_eq (s : State) (members : List Member) :
    (s.station.state = .joining → s.adoptCensus members = s.goesUp members .joined) ∧
    (s.station.state = .up → s.adoptCensus members =
      (s.modifyStation ({ · with view := members, censusLosses := 0 })).reportsMembership s.station.view members) ∧
    (s.station.state = .down → s.station.faultScore ≤ 32 →
      s.adoptCensus members = (s.goesUp members .recovered).reportsMembership s.station.view members) ∧
    (s.station.state = .down → 32 < s.station.faultScore →
      s.adoptCensus members = s.modifyStation ({ · with censusLosses := 0 })) := by
  refine ⟨fun state => ?_, fun state => ?_, fun state trusted => ?_, fun state doubted => ?_⟩
  · simp only [State.adoptCensus, state, State.enterUp_eq]
  · simp only [State.adoptCensus, state]
    rfl
  · have score : s.station.faultScore ≤ Config.trustScore := trusted
    simp only [State.adoptCensus, state, if_pos score, State.enterUp_eq]
    rfl
  · have score : ¬ s.station.faultScore ≤ Config.trustScore := Nat.not_le.2 doubted
    simp only [State.adoptCensus, state, if_neg score]

/-- Settles O48: the search for the entry, and the census in flight with its list. -/
theorem ownReleaseAndCensusReturns : Obligations.OwnReleaseAndCensusReturns := by
  intro s s0 a rest f arrives intact own hs0
  have tenancies (j : EntryIx) : s0.tenancy j = s.tenancy j := by rw [hs0, State.afterIntact_tenancy]
  have returned : exec .frameArrival s = next (s0.ownReturn f) := hs0 ▸ State.arrival_own arrives intact own
  refine ⟨fun tag body => ?_, fun members body => ?_⟩
  · have home : s0.ownReturn f = s0.releaseReturn f.serial tag := by rw [State.ownReturn, body]
    rw [returned, home]
    refine ⟨fun i t circuit h on flies alone => ?_, fun unmatched => ?_⟩
    · rw [State.releaseReturn_matched ((tenancies i).trans h) on flies (by simpa only [tenancies] using alone)]
    · rw [State.releaseReturn_unmatched (by simpa only [tenancies] using unmatched)]
  · have home : s0.ownReturn f = s0.censusReturn f.serial members := by rw [State.ownReturn, body]
    have census : s0.station.census = s.station.census := by rw [hs0, State.afterIntact_census]
    have micros : s0.time.micros = s.time.micros := by rw [hs0, State.afterIntact_time]
    rw [returned, home]
    refine ⟨fun unmatched => ?_, fun origin circuit s1 flies least most hs1 => ?_⟩
    · rw [State.censusReturn_unmatched (by simpa only [census] using unmatched)]
    have state : s1.station.state = s.station.state := by rw [hs1, hs0]; exact s.afterIntact_state rest
    have view : s1.station.view = s.station.view := by rw [hs1, hs0]; exact s.afterIntact_view rest
    have config : s1.config = s.config := by rw [hs1, hs0]; exact s.afterIntact_config rest
    have identity : s1.identity = s.identity := by rw [hs1, hs0]; exact s.afterIntact_identity rest
    have duplicate := s1.listsDuplicate_iff members.tail
    rw [config, identity] at duplicate
    rw [← micros] at least most hs1
    rw [State.censusReturn_matched (census.trans flies) least most hs1]
    refine ⟨fun named running => ?_, fun clear => ?_⟩
    · have inRing : s1.station.state = .joining ∨ s1.station.state = .up ∨ s1.station.state = .down := by
        obtain ⟨-, -, online⟩ := arrives
        rw [state]
        cases h : s.station.state with
        | offline => exact absurd h online
        | halted => exact absurd h running
        | _ => simp
      rw [if_pos (duplicate.2 named), State.enterHalted_eq inRing]
    · have single : ¬ s1.listsDuplicate members.tail = true := fun listed => by
        obtain ⟨m, mem, number, differs⟩ := duplicate.1 listed
        exact differs (clear m mem number)
      obtain ⟨joins, stays, recovers, waits⟩ := s1.adoptCensus_eq members
      rw [state] at joins stays recovers waits
      rw [view] at stays recovers
      rw [if_neg single]
      exact ⟨fun h => by rw [joins h], fun h => by rw [stays h], fun h trusted => by rw [recovers h trusted],
        fun h doubted => by rw [waits h doubted]⟩

end Sys2Proof.Machine

namespace Sys2Proof.Machine

/-! ### An originated frame (R74 to R78) -/

theorem Frame.encode_eq (f : Frame) : f.encode =
    (f.body.kind ++ f.source ++ (0 : BitVec 2) ++ f.hop : Word) :: f.check :: (f.serial ++ f.body.lowByte : Word) ::
      (f.body.words ++ [crc16 (f.header ++ f.body.words)]) := rfl

/-- A frame whose contents are read back from its words is intact on arrival, and its header is read back with them. -/
theorem Frame.judge_encode {f : Frame}
    (reads : ∀ c, parseBody f.body.kind f.body.lowByte (f.body.words ++ [c]) = some f.body) :
    ({ words := f.encode, violation := false, overlong := false, cutShort := false } : Arrival).judge = some f := by
  obtain ⟨kind, source, hop⟩ := word0_fields f.body.kind f.source f.hop
  obtain ⟨low, serial⟩ := word2_fields f.serial f.body.lowByte
  have crc : crcMatches f.encode = true := crcMatches_withCrc _
  change parseFrame f.encode = some f
  rw [Frame.encode_eq] at crc ⊢
  rw [parseFrame_cons, if_pos crc, kind, source, hop, low, serial, reads]
  rfl

theorem objectorBits_fields (objector : Option StationNo) :
    (objectorBits objector).getLsbD 6 = objector.isSome ∧
      ∀ n, objector = some n → (objectorBits objector).extractLsb' 0 6 = n := by
  cases objector with
  | none => exact ⟨rfl, fun _ h => by cases h⟩
  | some n => exact ⟨by revert n; decide, fun m h => by cases h; revert n; decide⟩

theorem Mode.of_bit (m : Mode) : (if m.bit.getLsbD 0 then Mode.exclusive else .shared) = m := by cases m <;> rfl

/-- A CLAIM with an objector exactly when it has a mark is read back from its words (R75, R78). -/
theorem parseBody_claim {tag : Tag} {m : Mode} {standing : BitVec 4} {held yield : Bool} {objector : Option StationNo}
    (agree : objector.isSome = (held || yield)) (c : Word) :
    parseBody 0b01 (tag.extractLsb' 16 8) ((FrameBody.claim tag m standing held yield objector).words ++ [c]) =
      some (.claim tag m standing held yield objector) := by
  obtain ⟨b15, b11, b10, b9, b6, b0⟩ :=
    word4_fields m.bit standing (flagBit held) (flagBit yield) (objectorBits objector)
  obtain ⟨present, named⟩ := objectorBits_fields objector
  refine parseClaim_iff.2 ⟨tag_of_words tag, ?_, b11, b10.trans (flagBit_bit held), b9.trans (flagBit_bit yield),
    b6.trans (present.trans agree), ?_⟩
  · rw [b15, Mode.of_bit]
  · rw [b6, b0, present]
    cases objector with
    | none => rfl
    | some n => exact congrArg some (named n rfl)

/-- A RELEASE is read back from its words (R76). -/
theorem parseBody_release (tag : Tag) (c : Word) :
    parseBody 0b10 (tag.extractLsb' 16 8) ((FrameBody.release tag).words ++ [c]) = some (.release tag) :=
  congrArg (fun t => some (FrameBody.release t)) (tag_of_words tag)

/-- A CENSUS of 1 to 64 entries with non-zero identities is read back from its words (R77, R78). -/
theorem parseBody_census {members : List Member} (least : 1 ≤ members.length) (most : members.length ≤ 64)
    (identities : ∀ m ∈ members, m.identity ≠ 0) (low : Byte) (c : Word) :
    parseBody 0b11 low ((FrameBody.census members).words ++ [c]) = some (.census members) := by
  refine parseCensus_iff.2 ⟨members, parseMembers_words members c identities, ?_, least, most, rfl⟩
  rw [BitVec.extractLsb'_toNat, BitVec.toNat_ofNat, Nat.shiftRight_zero]
  omega

/-- Settles O8: kind by kind, the contents are read back from their words. -/
theorem originatedFramesAreIntact : Obligations.OriginatedFramesAreIntact := by
  intro f claims lists
  refine Frame.judge_encode fun c => ?_
  cases body : f.body with
  | claim tag m standing held yield objector => exact parseBody_claim (claims tag m standing held yield objector body) c
  | release tag => exact parseBody_release tag c
  | census members =>
    obtain ⟨least, most, identities⟩ := lists members body
    exact parseBody_census least most identities 0 c

end Sys2Proof.Machine

namespace Sys2Proof.Machine

/-! ### What an intact arrival is made of (R78) -/

theorem Arrival.judge_eq_some {a : Arrival} {f : Frame} (h : a.judge = some f) :
    (a.violation = false ∧ a.overlong = false ∧ a.cutShort = false) ∧ parseFrame a.words = some f := by
  unfold Arrival.judge at h
  split at h
  · cases h
  · next clear =>
    simp only [Bool.not_eq_true, Bool.or_eq_false_iff, and_assoc] at clear
    exact ⟨clear, h⟩

theorem parseFrame_crc {ws : List Word} {f : Frame} (h : parseFrame ws = some f) :
    ws.getLast? = some (crc16 ws.dropLast) := by
  obtain ⟨w0, w1, w2, rest, rfl, -⟩ := parseFrame_words h
  rw [parseFrame_cons] at h
  split at h
  · next crc => exact beq_iff_eq.1 crc
  · cases h

/-- An objector is present in word 4 exactly when a mark is set (R75, R78). -/
theorem parseClaim_agrees {low : Byte} {w3 w4 : Word} {body : FrameBody} (h : parseClaim low w3 w4 = some body) :
    w4.getLsbD 6 = (w4.getLsbD 10 || w4.getLsbD 9) := by
  obtain ⟨_, _, _, _, _, _, rfl⟩ := parseClaim_kind h
  obtain ⟨-, -, -, rfl, rfl, agree, -⟩ := parseClaim_iff.1 h
  exact agree

/-- No entry of a list that is read has identity 0 (R78). -/
theorem parseMembers_identity : ∀ {ws : List Word} {ms : List Member} {k : Nat}, parseMembers ws = some ms →
    3 * k + 3 < ws.length → ws[3 * k + 1]? = some 0 → ws[3 * k + 2]? ≠ some 0
  | [], _, _, _, short => by simp at short
  | [_], _, _, _, short => by simp at short
  | [_, _], _, _, h, _ => by simp [parseMembers] at h
  | a :: hi :: lo :: rest, _, 0, h, _ => fun high low => by
    obtain ⟨-, -, -, identity⟩ := parseMembers_cons h
    obtain rfl : hi = 0 := Option.some.inj high
    obtain rfl : lo = 0 := Option.some.inj low
    exact identity rfl
  | a :: hi :: lo :: rest, _, k + 1, h, inside => by
    obtain ⟨_, reads, -, -⟩ := parseMembers_cons h
    simp only [List.length_cons] at inside
    exact parseMembers_identity (k := k) reads (by omega)

/-- The words of an intact frame by the kind field of its first word (R78, R189): a CLAIM of six words with an objector exactly
when it is marked, a RELEASE of five, a CENSUS with the entry count of its list. -/
theorem Arrival.judge_words {a : Arrival} {f : Frame} {w0 : Word} (h : a.judge = some f) (head : a.words.head? = some w0) :
    (w0.extractLsb' 14 2 = 0b01 ∧ ∃ w1 w2 w3 w4 c, a.words = [w0, w1, w2, w3, w4, c] ∧
        w4.getLsbD 6 = (w4.getLsbD 10 || w4.getLsbD 9)) ∨
      (w0.extractLsb' 14 2 = 0b10 ∧ ∃ w1 w2 w3 c, a.words = [w0, w1, w2, w3, c]) ∨
      (w0.extractLsb' 14 2 = 0b11 ∧ ∃ w1 w2 count list ms, a.words = w0 :: w1 :: w2 :: count :: list ∧
        parseMembers list = some ms ∧ (count.extractLsb' 0 7).toNat = ms.length ∧ 1 ≤ ms.length ∧ ms.length ≤ 64) := by
  obtain ⟨-, parsed⟩ := Arrival.judge_eq_some h
  obtain ⟨w, w1, w2, rest, words, reads⟩ := parseFrame_words parsed
  rw [words] at head ⊢
  obtain rfl : w = w0 := Option.some.inj head
  rcases parseBody_cases reads with ⟨kind, w3, w4, c, rfl, claim⟩ | ⟨kind, w3, c, rfl, -⟩ | ⟨kind, count, list, rfl, census⟩
  · exact .inl ⟨kind, w1, w2, w3, w4, c, rfl, parseClaim_agrees claim⟩
  · exact .inr (.inl ⟨kind, w1, w2, w3, c, rfl⟩)
  · obtain ⟨ms, list_, counted, least, most, -⟩ := parseCensus_iff.1 census
    exact .inr (.inr ⟨kind, w1, w2, count, list, ms, rfl, list_, counted, least, most⟩)

section
variable {a : Arrival} {f : Frame} {w0 : Word}

theorem Arrival.judge_claim_words (h : a.judge = some f) (head : a.words.head? = some w0) (kind : w0.extractLsb' 14 2 = 0b01) :
    ∃ w1 w2 w3 w4 c, a.words = [w0, w1, w2, w3, w4, c] ∧ w4.getLsbD 6 = (w4.getLsbD 10 || w4.getLsbD 9) := by
  simpa [kind] using Arrival.judge_words h head

theorem Arrival.judge_release_words (h : a.judge = some f) (head : a.words.head? = some w0)
    (kind : w0.extractLsb' 14 2 = 0b10) : ∃ w1 w2 w3 c, a.words = [w0, w1, w2, w3, c] := by
  simpa [kind] using Arrival.judge_words h head

theorem Arrival.judge_census_words (h : a.judge = some f) (head : a.words.head? = some w0)
    (kind : w0.extractLsb' 14 2 = 0b11) :
    ∃ w1 w2 count list ms, a.words = w0 :: w1 :: w2 :: count :: list ∧ parseMembers list = some ms ∧
      (count.extractLsb' 0 7).toNat = ms.length ∧ 1 ≤ ms.length ∧ ms.length ≤ 64 := by
  simpa [kind] using Arrival.judge_words h head

/-- A census of n entries has 3n + 5 words, n being its entry count (R77, R189). -/
theorem Arrival.judge_census_length (h : a.judge = some f) (head : a.words.head? = some w0)
    (kind : w0.extractLsb' 14 2 = 0b11) :
    ∃ w3 n, a.words[3]? = some w3 ∧ (w3.extractLsb' 0 7).toNat = n ∧ a.words.length = 3 * n + 5 ∧ 1 ≤ n ∧ n ≤ 64 := by
  obtain ⟨w1, w2, count, list, ms, words, reads, counted, least, most⟩ := Arrival.judge_census_words h head kind
  have length := parseMembers_length reads
  exact ⟨count, ms.length, by rw [words]; rfl, counted, by simp only [words, List.length_cons, length], least, most⟩

theorem Arrival.judge_length (h : a.judge = some f) : 5 ≤ a.words.length := by
  obtain ⟨-, parsed⟩ := Arrival.judge_eq_some h
  obtain ⟨w0, w1, w2, rest, words, -⟩ := parseFrame_words parsed
  have head : a.words.head? = some w0 := by rw [words]; rfl
  rcases Arrival.judge_words h head with ⟨-, _, _, _, _, _, claim, -⟩ | ⟨-, _, _, _, _, release⟩ | ⟨kind, -⟩
  · simp [claim]
  · simp [release]
  · obtain ⟨_, n, -, -, length, -⟩ := Arrival.judge_census_length h head kind
    omega

end

/-- Settles O10: were the frame intact, its words would not have the fault. -/
theorem damageIsFound : Obligations.DamageIsFound := by
  intro a
  have damaged {p : Prop} (fault : p) (sound : ∀ f, a.judge = some f → ¬ p) : a.judge = none :=
    Option.eq_none_iff_forall_ne_some.2 fun f h => sound f h fault
  refine ⟨fun fault => damaged fault fun f h => ?_, fun fault => damaged fault fun f h => ?_,
    fun fault => damaged fault fun f h => ?_, fun w0 head => ⟨fun fault => damaged fault fun f h => ?_,
    fun kind fault => damaged fault fun f h => ?_, fun kind fault => damaged fault fun f h => ?_,
    fun kind fault => damaged fault fun f h => ?_, fun w3 kind third fault => damaged fault fun f h => ?_,
    fun k kind inside high fault => damaged fault fun f h => ?_, fun w4 kind fourth fault => damaged fault fun f h => ?_⟩⟩
  · obtain ⟨⟨violation, overlong, cutShort⟩, -⟩ := Arrival.judge_eq_some h
    simp [violation, overlong, cutShort]
  · obtain ⟨-, parsed⟩ := Arrival.judge_eq_some h
    exact not_not_intro (parseFrame_crc parsed)
  · exact Nat.not_lt.2 (Arrival.judge_length h)
  · rcases Arrival.judge_words h head with ⟨kind, -⟩ | ⟨kind, -⟩ | ⟨kind, -⟩ <;> rw [kind] <;> decide
  · obtain ⟨_, _, _, _, _, words, -⟩ := Arrival.judge_claim_words h head kind
    simp [words]
  · obtain ⟨_, _, _, _, words⟩ := Arrival.judge_release_words h head kind
    simp [words]
  · obtain ⟨_, n, -, -, length, least, most⟩ := Arrival.judge_census_length h head kind
    omega
  · obtain ⟨count, n, here, counted, length, -⟩ := Arrival.judge_census_length h head kind
    obtain rfl : count = w3 := Option.some.inj (here.symm.trans third)
    omega
  · obtain ⟨_, _, _, list, _, words, reads, -⟩ := Arrival.judge_census_words h head kind
    rw [words] at high inside ⊢
    simp only [List.length_cons] at inside
    exact parseMembers_identity reads (by omega) high
  · obtain ⟨_, _, _, w, _, words, agree⟩ := Arrival.judge_claim_words h head kind
    rw [words] at fourth
    obtain rfl : w = w4 := Option.some.inj fourth
    exact not_not_intro agree

end Sys2Proof.Machine

namespace Sys2Proof.Machine

open Host.Outcome

/-! ### The reports of arrivals (R79, R115 to R117) -/

/-- A damaged arrival is reported, and nothing else is done with it (R79). -/
theorem State.arrival_damaged {s : State} {a : Arrival} {rest : List Arrival} (h : s.Arrives a rest) (hj : a.judge = none) :
    exec .frameArrival s = next (s.modifyFrames ({ · with arrivals := rest })).reportDamaged := by
  rw [State.arrival_taken h]
  simp only [State.takeArrival, hj]

/-- Settles O45: by the warning, its level and the top of the score. -/
theorem arrivalsMoveTheFaultScore : Obligations.ArrivalsMoveTheFaultScore := by
  refine ⟨fun s s1 a rest score arrives damaged hscore hs1 => ?_, fun s => ⟨fun on low => ?_, fun silent => ?_⟩⟩
  · have reported := State.reportDamaged_eq (s := s.modifyFrames ({ · with arrivals := rest })) hscore
    simp only [State.modifyFrames_station, ← hs1] at reported
    rw [State.arrival_damaged arrives damaged, reported]
    have stays (low : score < 255 ∨ s.station.state ≠ .up) : ¬ (score = 255 ∧ s.station.state = .up) := fun ⟨top, up⟩ =>
      low.elim (fun below => Nat.ne_of_lt below top) fun other => other up
    refine ⟨fun silent low => ?_, fun on top up => ?_, fun off high low => ?_, fun off top up => ?_⟩
    · have noWarning : ¬ (s.station.faultWarning = false ∧ 96 ≤ score) := by
        rintro ⟨off, high⟩
        rcases silent with on | below
        · rw [off] at on; cases on
        · omega
      rw [if_neg (stays low), if_neg noWarning]
    · have noWarning : ¬ (s.station.faultWarning = false ∧ 96 ≤ score) := fun ⟨off, _⟩ => by rw [on] at off; cases off
      rw [if_pos ⟨top, up⟩, if_neg noWarning]
    · rw [if_neg (stays low), if_pos ⟨off, high⟩]
    · rw [if_pos ⟨top, up⟩, if_pos ⟨off, by omega⟩]
  · have cleared : s.station.faultWarning = true ∧ scoreIntact s.station.faultScore < Config.warnClearBelow := ⟨on, low⟩
    simp only [State.reportIntact, if_pos cleared]
    rfl
  · have kept : ¬ (s.station.faultWarning = true ∧ scoreIntact s.station.faultScore < Config.warnClearBelow) := by
      rintro ⟨on, low⟩
      rcases silent with off | high
      · rw [off] at on; cases on
      · exact Nat.not_lt.2 high low
    simp only [State.reportIntact, if_neg kept]
    rfl

end Sys2Proof.Machine

namespace Sys2Proof.Machine

open Host.Outcome

/-! ### The taking of all changes told (R47) -/

theorem State.takeChange_nil {s : State} (h : s.lease.changes = []) : s.takeChange = s := by
  simp only [State.takeChange, h]

theorem State.takeChange_length_le {n : Nat} {s : State} (h : s.lease.changes.length ≤ n + 1) :
    s.takeChange.lease.changes.length ≤ n := by
  by_cases none_ : s.lease.changes = []
  · rw [State.takeChange_nil none_, none_]
    exact Nat.zero_le n
  · exact Nat.le_of_lt_succ (Nat.lt_of_lt_of_le (s.takeChange_shorter none_) h)

/-- Once no change is left, a further taking does nothing. -/
theorem State.takeChangesN_succ {n : Nat} {s : State} (h : s.lease.changes.length ≤ n) :
    State.takeChangesN (n + 1) s = State.takeChangesN n s := by
  induction n generalizing s with
  | zero => exact State.takeChange_nil (List.eq_nil_of_length_eq_zero (Nat.le_zero.1 h))
  | succ n ih => exact ih (State.takeChange_length_le h)

theorem State.takeChangesN_enough {n : Nat} {s : State} (h : s.lease.changes.length ≤ n) :
    State.takeChangesN n s = s.takeChanges := by
  induction n, h using Nat.le_induction with
  | base => rfl
  | succ n enough ih => exact (State.takeChangesN_succ enough).trans ih

/-- All changes told are taken by taking one and then all that are left. -/
theorem State.takeChanges_cons {s : State} (h : s.lease.changes ≠ []) : s.takeChanges = s.takeChange.takeChanges := by
  obtain ⟨n, length⟩ := Nat.exists_eq_add_one.2 (List.length_pos_iff.2 h)
  rw [State.takeChanges, length]
  exact State.takeChangesN_enough (State.takeChange_length_le length.le)

/-! ### Foreign frames at the station (R81, R82) -/

@[simp] theorem State.afterIntact_choices (s : State) (rest : List Arrival) : (s.afterIntact rest).choices = s.choices := by
  simp only [State.afterIntact, State.reportIntact]; split <;> rfl

@[simp] theorem State.halts_choices (s : State) : s.halts.choices = s.choices := by
  simp only [State.halts, State.setChanges_choices, (State.raiseStation_work _ _ _).choices, State.setSendList_choices,
    State.modifyStation_choices]

theorem State.drawOrder_eq (s : State) :
    (Config.haltedFirst s.choices = false → s.drawOrder = { s with choices := s.choices + 1 }) ∧
      (Config.haltedFirst s.choices = true → s.drawOrder = ({ s with choices := s.choices + 1 } : State).takeChanges) :=
  ⟨fun h => by simp only [State.drawOrder, h, Bool.false_eq_true, if_false],
    fun h => by simp only [State.drawOrder, h, if_true]⟩

theorem StationState.running_of {x : StationState} (online : x ≠ .offline) (unhalted : x ≠ .halted) :
    x = .joining ∨ x = .up ∨ x = .down := by
  cases x with
  | offline => exact absurd rfl online
  | halted => exact absurd rfl unhalted
  | _ => simp

/-- A frame that gives no duplicate report is stripped as an orphan or passed (R82). -/
theorem State.foreignFrame_unreported {s : State} {f : Frame}
    (h : f.source ≠ s.config.settings.stationNumber ∨ s.station.state = .halted) (ws : List Word) :
    s.foreignFrame f ws = if s.config.settings.ringLimit ≤ f.hop.toNat + 1 then s else s.passFrame f ws := by
  have stays : (if s.ownNumber f then s.enterHalted else s) = s ∧ s.reportsDuplicate f = false := by
    rcases h with other | halted
    · have foreign : s.ownNumber f = false := beq_eq_false_iff_ne.2 other
      simp [State.reportsDuplicate, foreign]
    · simp [State.reportsDuplicate, State.enterHalted_not (.inl halted), halted]
  simp only [State.foreignFrame, stays.1, stays.2, Nat.sub_le_iff_le_add, Bool.false_eq_true, if_false]

/-- A frame with this station's number is reported to a station that runs; then it is stripped as an orphan or passed (R81,
R82). -/
theorem State.foreignFrame_reported {s : State} {f : Frame} (number : f.source = s.config.settings.stationNumber)
    (running : s.station.state = .joining ∨ s.station.state = .up ∨ s.station.state = .down) (ws : List Word) :
    s.foreignFrame f ws =
      if s.config.settings.ringLimit ≤ f.hop.toNat + 1 then s.halts else s.halts.drawOrder.passFrame f ws := by
  have own : s.ownNumber f = true := beq_iff_eq.2 number
  have reports : s.reportsDuplicate f = true := by simpa [State.reportsDuplicate, own, or_assoc] using running
  simp only [State.foreignFrame, own, reports, State.enterHalted_eq running, Nat.sub_le_iff_le_add, if_true]

/-- Settles O50: by the source and the state, then by the hop count and the order drawn. -/
theorem foreignFramesAreStrippedOrPassed : Obligations.ForeignFramesAreStrippedOrPassed := by
  refine ⟨fun s s0 a rest f arrives intact foreign hs0 => ?_, fun u v => ⟨fun none_ => ?_, fun some_ takes => ?_⟩⟩
  · have config : s0.config = s.config := by rw [hs0, State.afterIntact_config]
    have state : s0.station.state = s.station.state := by rw [hs0, State.afterIntact_state]
    have choices : s0.halts.choices = s.choices := by rw [State.halts_choices, hs0, State.afterIntact_choices]
    rw [State.arrival_foreign arrives intact foreign, ← hs0, ← config, ← state]
    refine ⟨fun unreported => ?_, fun number unhalted => ?_⟩
    · rw [State.foreignFrame_unreported unreported]
      exact ⟨fun orphan => by rw [if_pos orphan], fun passes => by rw [if_neg (Nat.not_le.2 passes)]⟩
    · obtain ⟨-, -, online⟩ := arrives
      have running := StationState.running_of (by rwa [state]) unhalted
      obtain ⟨later, first⟩ := s0.halts.drawOrder_eq
      rw [choices] at later first
      rw [State.foreignFrame_reported number running]
      exact ⟨fun orphan => by rw [if_pos orphan], fun passes => by
        rw [if_neg (Nat.not_le.2 passes)]
        exact ⟨fun order => by rw [later order], fun order => by rw [first order]⟩⟩
  · rw [State.takeChanges, none_]
    rfl
  · obtain rfl : u.takeChange = v := Host.Outcome.next.inj takes
    exact State.takeChanges_cons some_

end Sys2Proof.Machine

namespace Sys2Proof.Machine

open Host.Outcome

/-! ### Station state and insertion mode (R92, R106, R122) -/

theorem State.pending_sameRing (s : State) (rest : List Instr) : s.SameRing { s with pending := rest } :=
  ⟨rfl, fun _ h => h, rfl, rfl, rfl, rfl, rfl⟩

/-- Settles O14: each event keeps station and line together, and so does the block's own clock. -/
theorem stepKeepsStationAndLineTogether : Obligations.StepKeepsStationAndLineTogether := fun s t line h => by
  rcases step_cases h with ⟨-, rfl⟩ | ⟨c, rest, -, ran⟩
  · exact (State.idle_ringStep line).line
  · exact (exec_ringStep ((s.pending_sameRing rest).stationLine line) ran).line

/-! ### START (R107, R163, R175) -/

/-- A configuration command on channel 0 acts in OFFLINE with leaving clear (R164). -/
theorem State.configCommand_acts {s : State} (high : s.rstnLow = false) (offline : s.station.state = .offline)
    (leaving : s.station.leaving = false) (code echo : Byte) (act : State → State) :
    s.configCommand 0 code echo act = act s := by
  rw [State.configCommand, State.channel0Only, State.atPort_high high, if_pos rfl, if_pos ⟨offline, leaving⟩]

/-- START's validation, in the words of R175. -/
theorem ConfigStore.valid_iff (x : ConfigStore) : x.valid = true ↔ x.settings.inRange = true ∧ x.quotaSum ≤ 64 := by
  simp [ConfigStore.valid]

/-- A START that is taken is decided by the validation of the configuration alone (R163). -/
theorem State.execStart_validates {s : State} (high : s.rstnLow = false) (offline : s.station.state = .offline)
    (leaving : s.station.leaving = false) (echo : Byte) :
    exec (.start 0 echo) s = next (if s.config.valid then s.takeStart.answer 0 0x24 echo .ok .nothing
      else s.answer 0 0x24 echo .badArgument .nothing) := by
  rw [exec, execStart, State.configCommand_acts high offline leaving]

/-- Settles O35: by the validation of the configuration. -/
theorem startBeginsJoining : Obligations.StartBeginsJoining := by
  intro s echo high offline leaving
  rw [State.execStart_validates high offline leaving]
  refine ⟨fun settings quotas => ?_, fun bad => ?_⟩
  · rw [if_pos (s.config.valid_iff.2 ⟨settings, quotas⟩)]
    rfl
  · rw [if_neg fun valid => ?_]
    obtain ⟨settings, quotas⟩ := s.config.valid_iff.1 valid
    exact bad.elim (fun outside => outside settings) (Nat.not_lt.2 quotas)

/-! ### The transmitter's END, the relay and the station timestamp (R98, R101, R102, R124) -/

/-- The END of the draining frame closes the bypass, whichever of its two events was queued (R102, R122). -/
theorem State.draining_closes {s : State} (draining : s.line.mode = .draining) {c : Instr}
    (end_ : c = .drainingEndSent ∨ c = .frameEndSent) :
    exec c s = next (s.modifyLine ({ · with transmitter := .ended })).bypassClosed := by
  rcases end_ with rfl | rfl
  · rw [exec, execDrainingEndSent, if_pos draining]
  · simp only [exec, execFrameEndSent, draining]

/-- Settles O56: each event by the mode, and by the state, in which it acts. -/
theorem transmitterRelayAndTimestamp : Obligations.TransmitterRelayAndTimestamp := by
  refine fun s => ⟨fun ws sent inserted sending => ?_, fun high ended => ?_, fun c draining end_ => ?_,
    fun timer settling => ?_, fun offline => ?_, fun online => ?_⟩
  · simp only [exec, execFrameEndSent, inserted, sending]
  · simp [State.ringOutWord, high, ended]
  · exact State.draining_closes draining end_
  · simp only [exec, execRelaySettleExpiry, settling]
  · rw [exec, execStationTimestampTick, if_pos offline]
  · refine ⟨_, by rw [exec, execStationTimestampTick, if_neg online], rfl, ?_⟩
    exact BitVec.toNat_add _ _

end Sys2Proof.Machine

namespace Sys2Proof.Machine

open Host.Outcome

/-! ### The detector and the receiver (R93 to R95, R108) -/

theorem State.upstreamIsPresent_of_silent {s : State} (silent : s.line.detector = .silent) : s.upstreamIsPresent = false := by
  simp only [State.upstreamIsPresent, silent]

theorem State.upstreamIsPresent_of_present {s : State} {timer : Nat} (present : s.line.detector = .present timer) :
    s.upstreamIsPresent = true := by
  simp only [State.upstreamIsPresent, present]

/-- The census waits for the upstream signal (R108). -/
def State.CensusWaits (s : State) : Prop :=
  s.station.state = .joining ∧ s.station.awaitsUpstream = true ∧ s.station.census = .none

/-- What a valid word is to the detector: at a SILENT one it adds the census that waits for it; else the silence timer starts
anew and no more (R93, R108). -/
theorem State.detectWord_cases (s : State) :
    (s.line.detector = .silent ∧ s.CensusWaits ∧
      s.detectWord = (s.modifyLine ({ · with detector := .present 50 })).queuesCensus) ∨
    (((∃ timer, s.line.detector = .present timer) ∨ ¬ s.CensusWaits) ∧
      s.detectWord = s.modifyLine ({ · with detector := .present 50 })) := by
  cases detector : s.line.detector with
  | silent =>
    have reported : s.detectWord = (s.modifyLine ({ · with detector := .present 50 })).reportPresent := by
      simp only [State.detectWord, detector]
    by_cases waits : s.CensusWaits
    · exact .inl ⟨rfl, waits, reported.trans ((if_pos waits).trans (State.addCensus_none waits.2.2))⟩
    · exact .inr ⟨.inr waits, reported.trans (if_neg waits)⟩
  | present timer => exact .inr ⟨.inl ⟨timer, rfl⟩, by simp only [State.detectWord, detector]⟩

/-- The detector does not change the receiver's condition. -/
theorem State.detectWord_receiver (s : State) : s.detectWord.line.receiver = s.line.receiver := by
  rcases s.detectWord_cases with ⟨-, -, adds⟩ | ⟨-, restarts⟩
  · rw [adds]; rfl
  · rw [restarts]; rfl

theorem wordIsValid_iff (w : LineWord) : wordIsValid w = true ↔ w ≠ .violation := by
  cases w <;> simp [wordIsValid]

/-- What the detector leaves of the block before the receiver treats a word: a violation is no valid word (R91, R93). -/
def State.detected (s : State) (w : LineWord) : State := if wordIsValid w then s.detectWord else s

theorem State.detected_receiver (s : State) (w : LineWord) : (s.detected w).line.receiver = s.line.receiver := by
  unfold State.detected
  split
  · exact s.detectWord_receiver
  · rfl

theorem State.detected_valid {s : State} {w : LineWord} (valid : w ≠ .violation) : s.detected w = s.detectWord :=
  if_pos ((wordIsValid_iff w).2 valid)

theorem State.execLineWordReceived_inserted {s : State} (inserted : s.line.mode = .inserted) (w : LineWord) :
    exec (.lineWordReceived w) s = next ((s.detected w).receive w) := by
  rw [exec, execLineWordReceived, if_pos inserted]
  rfl

/-- Between frames a START alone begins one (R94). -/
theorem State.receive_between {s : State} (between : s.line.receiver = .between) {w : LineWord} (other : w ≠ .start) :
    s.receive w = s := by
  cases w with
  | start => exact absurd rfl other
  | _ => simp only [State.receive, between]

/-- Silence completes a frame being received as cut short, and is then reported (R93, R95, R118). -/
theorem State.execUpstreamSilent_present {s : State} {timer : Nat} (inserted : s.line.mode = .inserted)
    (present : s.line.detector = .present timer) : exec .upstreamSilent s = next s.becomeSilent := by
  rw [exec, execUpstreamSilent, if_pos ⟨inserted, State.upstreamIsPresent_of_present present⟩]

/-- Silence between frames (R93). -/
theorem State.becomeSilent_between {s : State} (between : s.line.receiver = .between) :
    s.becomeSilent = (s.modifyLine ({ · with detector := .silent })).enterDown .silence := by
  simp only [State.becomeSilent, between]

/-- Silence in a frame completes it as cut short (R93, R95). -/
theorem State.becomeSilent_inFrame {s : State} {store : List Word} {violation overlong : Bool}
    (inFrame : s.line.receiver = .inFrame store violation overlong) :
    s.becomeSilent =
      ((s.modifyFrames fun f => { f with arrivals := f.arrivals ++ [⟨store, violation, overlong, true⟩] }).modifyLine
        ({ · with receiver := .between, detector := .silent })).enterDown .silence := by
  simp only [State.becomeSilent, inFrame]
  rfl

/-- Settles O55: by the mode, then by what the word is to the detector, and by the receiver's condition. -/
theorem receivedWordsMakeArrivals : Obligations.ReceivedWordsMakeArrivals := by
  refine ⟨fun s w other => ⟨?_, ?_, ?_⟩, fun s => ⟨fun timer present => ?_, fun silent => ?_⟩,
    fun s s1 w inserted violates restarts adds => ?_⟩
  · rw [exec, execLineWordReceived, if_neg other]
  · rw [exec, execUpstreamPresent, if_neg fun h => other h.1]
  · rw [exec, execUpstreamSilent, if_neg fun h => other h.1]
  · simp [exec, execUpstreamPresent, State.upstreamIsPresent_of_present present]
  · simp [exec, execUpstreamSilent, State.upstreamIsPresent_of_silent silent]
  have detected : s.detected w = s1 := by
    by_cases valid : w ≠ .violation
    · rw [State.detected_valid valid]
      rcases s.detectWord_cases with ⟨silent, ⟨joining, awaits, none_⟩, added⟩ | ⟨still, restarted⟩
      · rw [added, adds valid silent joining awaits none_]
      · refine restarted.trans (restarts valid ?_).symm
        simpa only [State.CensusWaits, not_and_or, Bool.not_eq_true] using still
    · rw [violates (not_not.1 valid), not_not.1 valid]
      rfl
  have receiver : s1.line.receiver = s.line.receiver := by rw [← detected, State.detected_receiver]
  rw [State.execLineWordReceived_inserted inserted, detected]
  refine ⟨fun silent valid => ?_, fun between => ⟨?_, fun other => ?_⟩, fun store violation overlong inFrame => ?_,
    fun timer q present between inFrame => ?_⟩
  · rw [exec, execUpstreamPresent, if_pos ⟨inserted, State.upstreamIsPresent_of_silent silent⟩, ← detected,
      State.detected_valid valid]
  · rintro rfl
    simp only [State.receive, receiver, between]
    rfl
  · rw [State.receive_between (receiver.trans between) other]
  · have at_ := receiver.trans inFrame
    refine ⟨?_, ?_, ?_, ?_, ?_, ?_⟩
    · rintro x rfl room
      simp only [State.receive, at_]
      exact congrArg next (if_pos room)
    · rintro x rfl full
      simp only [State.receive, at_]
      exact congrArg next (if_neg (Nat.not_lt.2 full))
    all_goals
      rintro rfl
      simp only [State.receive, at_]
      rfl
  · have silenced : s.becomeSilent = q.enterDown .silence ∧ q.station = s.station := by
      rcases condition : s.line.receiver with _ | ⟨store, violation, overlong⟩
      · rw [State.becomeSilent_between condition, between condition]
        exact ⟨rfl, rfl⟩
      · rw [State.becomeSilent_inFrame condition, inFrame _ _ _ condition]
        exact ⟨rfl, rfl⟩
    obtain ⟨silenced, station⟩ := silenced
    rw [State.execUpstreamSilent_present inserted present, silenced, ← station]
    exact ⟨fun up => by rw [State.enterDown_up up], fun other => by rw [State.enterDown_not other]⟩

end Sys2Proof.Machine

namespace Sys2Proof.Machine

open Host.Outcome

/-! ### The records a LEAVE raises, at one channel (R131, R136, R143) -/

theorem ChannelState.raise_of_room {c : ChannelState} (none_ : c.deferral = []) (room : c.queue.length < 24)
    (cls : EventClass) (r : EventRecord) : c.raise cls r = c.enqueue r :=
  if_pos (by simp [ChannelState.hasRoom, none_, room])

/-- With the queue full and no marker yet, a new marker waits (R136). -/
theorem ChannelState.raise_of_full {c : ChannelState} (none_ : c.deferral = []) (full : 24 ≤ c.queue.length)
    (cls : EventClass) (r : EventRecord) :
    c.raise cls r = { c with deferral := [.marker (({} : Suppressed).add cls)] } := by
  have noRoom : ¬ c.hasRoom = true := by simp [ChannelState.hasRoom, full]
  rw [ChannelState.raise, if_neg noRoom, ChannelState.suppress, none_, if_neg (by simp)]
  simp only [ChannelState.defer, none_, List.nil_append]

/-- Where a marker waits, the class joins its set (R136). -/
theorem ChannelState.raise_of_marked {c : ChannelState} (marked : c.deferral.any DeferralItem.isMarker = true)
    (cls : EventClass) (r : EventRecord) :
    c.raise cls r = { c with deferral := c.deferral.map (DeferralItem.addClass cls) } := by
  have noRoom : ¬ c.hasRoom = true := fun room => by
    obtain ⟨-, none_⟩ : _ ∧ c.deferral = [] := by simpa [ChannelState.hasRoom] using room
    rw [none_] at marked
    cases marked
  rw [ChannelState.raise, if_neg noRoom, ChannelState.suppress, if_pos marked]

/-- The summary markers of a channel's deferral list. -/
def ChannelState.markers (c : ChannelState) : List DeferralItem := c.deferral.filter DeferralItem.isMarker

/-- A channel with its deferred notices discarded (R143). -/
def ChannelState.withoutNotices (c : ChannelState) : ChannelState := { c with deferral := c.markers }

theorem ChannelState.withoutNotices_marked {c : ChannelState} (h : c.markers ≠ []) :
    c.withoutNotices.deferral.any DeferralItem.isMarker = true := by
  obtain ⟨x, hx⟩ := List.exists_mem_of_ne_nil _ h
  exact List.any_eq_true.2 ⟨x, hx, (List.mem_filter.1 hx).2⟩

/-- RING_STATE with cause LEFT, raised to the channel that the routing table names (R121, R131). -/
def ChannelState.raiseLeft (c : ChannelState) (timestamp : BitVec 32) (routed : Bool) : ChannelState :=
  if routed then c.raise .ring (.ringState timestamp .left .offline none) else c

/-- A channel once a LEAVE has discarded its notices and raised VOID, and RING_STATE where it is the routed one (R121). -/
def ChannelState.left (c : ChannelState) (timestamp : BitVec 32) (routed : Bool) : ChannelState :=
  (c.withoutNotices.raise .void (.void timestamp)).raiseLeft timestamp routed

section

variable {c : ChannelState} (timestamp : BitVec 32)

theorem ChannelState.left_ports (c : ChannelState) (routed : Bool) :
    (c.left timestamp routed).slot = c.slot ∧ (c.left timestamp routed).portError = c.portError ∧
      (c.left timestamp routed).readCopy = c.readCopy := by
  obtain ⟨slot, portError, readCopy⟩ := c.withoutNotices.raise_ports .void (.void timestamp)
  unfold ChannelState.left ChannelState.raiseLeft
  split
  · obtain ⟨slot', portError', readCopy'⟩ := (c.withoutNotices.raise .void (.void timestamp)).raise_ports .ring
      (.ringState timestamp .left .offline none)
    exact ⟨slot'.trans slot, portError'.trans portError, readCopy'.trans readCopy⟩
  · exact ⟨slot, portError, readCopy⟩

/-- No notice of an entry waits any more (R143). -/
theorem ChannelState.left_notices (c : ChannelState) (routed : Bool) : (c.left timestamp routed).notices = [] := by
  have discarded : c.withoutNotices.notices = [] := by
    simp [ChannelState.notices, ChannelState.withoutNotices, ChannelState.markers, List.filter_filter]
  have voided := (c.withoutNotices.raise_keepsNotices .void (.void timestamp)).1.trans discarded
  unfold ChannelState.left ChannelState.raiseLeft
  split
  · exact ((ChannelState.raise_keepsNotices _ _ _).1).trans voided
  · exact voided

theorem ChannelState.left_of_room (none_ : c.markers = []) (room : c.queue.length < 24) (routed : Bool) :
    c.left timestamp routed =
      ({ c with queue := c.queue ++ [.void timestamp], deferral := [] } : ChannelState).raiseLeft timestamp routed := by
  rw [ChannelState.left, ChannelState.raise_of_room (c := c.withoutNotices) none_ room, ChannelState.enqueue,
    ChannelState.withoutNotices, none_]

/-- VOID joins the queue of a channel that RING_STATE is not routed to. -/
theorem ChannelState.left_unrouted (none_ : c.markers = []) (room : c.queue.length < 24) :
    c.left timestamp false = { c with queue := c.queue ++ [.void timestamp], deferral := [] } :=
  ChannelState.left_of_room timestamp none_ room false

/-- VOID and RING_STATE both join a queue with room for two. -/
theorem ChannelState.left_routed (none_ : c.markers = []) (room : c.queue.length < 23) :
    c.left timestamp true =
      { c with queue := c.queue ++ [.void timestamp, .ringState timestamp .left .offline none], deferral := [] } := by
  rw [ChannelState.left_of_room timestamp none_ (by omega)]
  refine (ChannelState.raise_of_room rfl ?_ _ _).trans ?_
  · rw [List.length_append]
    exact Nat.succ_lt_succ room
  · simp [ChannelState.enqueue]

/-- VOID takes the last place of the queue, and RING_STATE is suppressed (R136). -/
theorem ChannelState.left_last (none_ : c.markers = []) (last : c.queue.length = 23) :
    c.left timestamp true =
      { c with queue := c.queue ++ [.void timestamp], deferral := [.marker { ring := true }] } := by
  rw [ChannelState.left_of_room timestamp none_ (by omega)]
  exact ChannelState.raise_of_full rfl (by simp [last]) _ _

theorem ChannelState.left_of_full (none_ : c.markers = []) (full : 24 ≤ c.queue.length) (routed : Bool) :
    c.left timestamp routed = { c with deferral := [.marker { ring := routed, void := true }] } := by
  rw [ChannelState.left, ChannelState.raise_of_full (c := c.withoutNotices) none_ full]
  cases routed with
  | false => rfl
  | true => exact ChannelState.raise_of_marked rfl _ _

/-- The marker's set after a LEAVE (R136). -/
theorem ChannelState.left_of_marked (marked : c.markers ≠ []) (routed : Bool) :
    c.left timestamp routed = { c with deferral := c.markers.map fun x =>
      if routed then (x.addClass .void).addClass .ring else x.addClass .void } := by
  have any := ChannelState.withoutNotices_marked marked
  rw [ChannelState.left, ChannelState.raise_of_marked any]
  cases routed with
  | false => rfl
  | true =>
    refine (ChannelState.raise_of_marked ?_ _ _).trans ?_
    · simpa [Function.comp_def] using any
    · rw [List.map_map]; rfl

end

/-! ### LEAVE at the Lease Table and the Event Block (R121, R143) -/

theorem State.raiseVoid_channel (s : State) (c d : Channel) :
    (s.raiseVoid c).channel d =
      if c = d then (s.channel d).raise .void (.void s.station.timestamp) else s.channel d := by
  rw [State.raiseVoid, State.modifyChannel_channel]
  split
  · next e => rw [e]
  · rfl

theorem State.leavingBlock_entry (s : State) (i : EntryIx) :
    s.leavingBlock.entry i = { generation := (s.entry i).generation, tenancy := none } := by
  have freed : s.leavingBlock.entry i = s.freeEntries.entry i := rfl
  rw [freed]
  simp [State.freeEntries, LeaseTable.freeAll, State.entry, Vector.get_eq_getElem]

/-- VOID raised to the four channels, in the order of R121. -/
def State.voided (s : State) : State := (((s.raiseVoid 0).raiseVoid 1).raiseVoid 2).raiseVoid 3

/-- Each channel is one of the four. -/
theorem State.voided_channel (s : State) (c : Channel) :
    s.voided.channel c = (s.channel c).raise .void (.void s.station.timestamp) := by
  simp only [State.voided, State.raiseVoid_channel]
  fin_cases c <;> rfl

/-- The block in the middle of a LEAVE, before its records are raised (R121). -/
def State.leavingFreed (s : State) : State :=
  let stopped := s.modifyStation fun r =>
    { r with leaving := true, holdOff := none, interval := none, census := .none, censusLosses := 0, awaitsUpstream := false }
  (stopped.freeEntries.setSendList []).modifyStation ({ · with view := [] })

theorem State.leavingBlock_eq (s : State) :
    s.leavingBlock = s.leavingFreed.voided.raiseRingState .left .offline none := rfl

/-- VOID reaches each channel once, and RING_STATE the routed one (R121, R131). -/
theorem State.leavingBlock_channel (s : State) (c : Channel) :
    s.leavingBlock.channel c = (s.channel c).left s.station.timestamp (decide (c = s.config.routing.ring)) := by
  have discarded : s.leavingFreed.channel c = (s.channel c).withoutNotices := State.freeEntries_channel _ c
  have voided : s.leavingFreed.voided.channel c =
      (s.channel c).withoutNotices.raise .void (.void s.station.timestamp) := by
    rw [State.voided_channel, discarded]; rfl
  rw [State.leavingBlock_eq, State.raiseRingState, State.raiseStation, State.modifyChannel_channel, ChannelState.left,
    ← voided]
  by_cases here : c = s.config.routing.ring
  · subst here
    rw [decide_eq_true rfl]
    exact if_pos rfl
  · rw [decide_eq_false here]
    exact if_neg (Ne.symm here)

/-! ### LEAVE at the Line Interface (R102, R104) -/

/-- The line emptied by a LEAVE, in a mode (R102). -/
def State.emptied (s : State) (mode : InsertionMode) : State :=
  (s.modifyLine ({ · with mode := mode, detector := .silent, receiver := .between, transit := [] })).modifyFrames
    ({ · with arrivals := [] })

/-- With a frame on ring-out the line drains (R102). -/
theorem State.lineLeave_drains {s : State} (inserted : s.line.mode = .inserted) {ws : List Word} {sent : Nat}
    (sending : s.line.transmitter = .sending ws sent) : s.lineLeave = s.emptied .draining := by
  simp only [State.lineLeave, inserted, sending]
  rfl

/-- With no frame on ring-out the bypass closes at once (R102). -/
theorem State.lineLeave_closes {s : State} (on : s.line.mode = .inserted ∨ ∃ timer, s.line.mode = .settling timer)
    (silent : ∀ ws sent, s.line.mode = .inserted → s.line.transmitter ≠ .sending ws sent) :
    s.lineLeave = ((s.emptied .bypassed).modifyStation ({ · with state := .offline, leaving := false })).setTaken .offline := by
  rcases on with inserted | ⟨timer, settling⟩
  · cases transmitter : s.line.transmitter with
    | sending ws sent => exact absurd transmitter (silent ws sent inserted)
    | _ =>
      simp only [State.lineLeave, inserted, transmitter]
      rfl
  · simp only [State.lineLeave, settling]
    rfl

/-- What the Line Interface does at a LEAVE in every mode that takes one: its receiving side, the transit store and the frames
that wait are emptied; entries, wait lists, send list, serial counter, configuration and event state are as before. -/
structure State.LineLeft (s t : State) : Prop where
  entry : ∀ i, t.entry i = s.entry i
  waiting : t.lease.waiting = s.lease.waiting
  frames : t.frames = { s.frames with arrivals := [] }
  config : t.config = s.config
  line : t.line = { s.line with mode := t.line.mode, detector := .silent, receiver := .between, transit := [] }
  channel : ∀ c, t.channel c = s.channel c

theorem State.lineLeave_lineLeft {s : State} (on : s.line.mode = .inserted ∨ ∃ timer, s.line.mode = .settling timer) :
    s.LineLeft s.lineLeave := by
  by_cases sending : s.line.mode = .inserted ∧ ∃ ws sent, s.line.transmitter = .sending ws sent
  · obtain ⟨inserted, ws, sent, sending⟩ := sending
    rw [State.lineLeave_drains inserted sending]
    exact ⟨fun _ => rfl, rfl, rfl, rfl, rfl, fun _ => rfl⟩
  · rw [State.lineLeave_closes on fun ws sent inserted e => sending ⟨inserted, ws, sent, e⟩]
    exact ⟨fun _ => rfl, rfl, rfl, rfl, rfl, fun _ => rfl⟩

/-! ### LEAVE and the frames that wait (R104, R121) -/

/-- A LEAVE that is taken judges the frames that wait, and then acts (R104, R121). -/
theorem State.execLeave_taken {s : State} (high : s.rstnLow = false) (online : s.station.state ≠ .offline)
    (staying : s.station.leaving = false) (echo : Byte) {u : State} (judged : State.judgeWaiting s.frames.arrivals s = u) :
    exec (.leave 0 echo) s = next (u.takeLeave.answer 0 0x25 echo .ok (.left (64 - u.freeCount))) := by
  have takes : ¬ (s.station.state = .offline ∨ s.station.leaving = true) := by simp [online, staying]
  rw [exec, execLeave, State.channel0Only, State.atPort_high high, if_pos rfl, if_neg takes, judged]

/-- The oldest frame that waits may be judged before the LEAVE is taken (R104). -/
theorem State.leave_after_arrival {s : State} (high : s.rstnLow = false) (online : s.station.state ≠ .offline)
    (staying : s.station.leaving = false) (waiting : s.frames.arrivals ≠ []) (echo : Byte) :
    ∃ s', exec .frameArrival s = next s' ∧ exec (.leave 0 echo) s = exec (.leave 0 echo) s' ∧
      s'.frames.arrivals = s.frames.arrivals.tail ∧ s'.rstnLow = false ∧ s'.station.state ≠ .offline ∧
      s'.station.leaving = false ∧ s'.line.mode = s.line.mode := by
  obtain ⟨a, rest, arrivals⟩ := List.exists_cons_of_ne_nil waiting
  obtain ⟨block, left, mode, leaving, offline⟩ := s.judgeNext_judge a rest
  have high' := block.rstnLow.trans high
  have online' : (s.judgeNext a rest).station.state ≠ .offline := fun e => online (offline.1 e)
  refine ⟨s.judgeNext a rest, by simp only [exec, execFrameArrival, arrivals], ?_, by rw [arrivals]; exact left, high', online',
    leaving.trans staying, mode⟩
  rw [State.execLeave_taken high online staying echo rfl,
    State.execLeave_taken high' online' (leaving.trans staying) echo rfl, left, arrivals]
  rfl

theorem State.answer_channel (s : State) (ch d : Channel) (code echo : Byte) (status : Status) (values : ResultValues) :
    (s.answer ch code echo status values).channel d =
      { s.channel d with slot := if ch = d then some ⟨code, echo, status, values⟩ else (s.channel d).slot } := by
  rw [State.answer, State.modifyChannel_channel]
  split
  · next e => rw [e]
  · rfl

/-- What a channel holds after a LEAVE on channel 0. -/
theorem State.takeLeave_channel {s : State} (on : s.line.mode = .inserted ∨ ∃ timer, s.line.mode = .settling timer)
    (echo : Byte) (values : ResultValues) (c : Channel) :
    (s.takeLeave.answer 0 0x25 echo .ok values).channel c =
      { (s.channel c).left s.station.timestamp (decide (c = s.config.routing.ring)) with
        slot := if 0 = c then some ⟨0x25, echo, .ok, values⟩ else (s.channel c).slot } := by
  obtain ⟨slot, -, -⟩ := (s.channel c).left_ports s.station.timestamp (decide (c = s.config.routing.ring))
  rw [State.answer_channel, State.takeLeave_eq, (State.lineLeave_lineLeft (s := s.leavingBlock) on).channel,
    State.leavingBlock_channel, slot]

/-- Settles O36: the frames that wait first, then the blocks in the order of R121, and the records channel by channel. -/
theorem leaveFreesEveryEntry : Obligations.LeaveFreesEveryEntry := by
  intro s echo high online staying on
  refine ⟨fun waiting => State.leave_after_arrival high online staying waiting echo, fun none_ => ?_⟩
  have judged : State.judgeWaiting s.frames.arrivals s = s := by rw [none_]; rfl
  refine ⟨_, State.execLeave_taken high online staying echo judged, ?_⟩
  have channel := State.takeLeave_channel on echo (.left (64 - s.freeCount))
  obtain ⟨entry, waiting, frames, config, line, -⟩ := State.lineLeave_lineLeft (s := s.leavingBlock) on
  rw [← State.takeLeave_eq] at entry waiting frames config line
  refine ⟨fun i => (entry i).trans (s.leavingBlock_entry i), waiting, congrArg _ frames, congrArg _ frames,
    (congrArg FrameProcessor.serial frames).trans rfl, config, congrArg _ line, congrArg _ line, congrArg _ line,
    (congrArg LineInterface.transmitter line).trans rfl, ?_, ?_, ?_, ?_, ?_, ?_, ?_⟩
  · rintro inserted ⟨ws, sent, sending⟩
    have drains := State.lineLeave_drains (s := s.leavingBlock) inserted sending
    rw [← State.takeLeave_eq] at drains
    rw [drains]
    exact ⟨rfl, rfl⟩
  · intro silent
    have closes := State.lineLeave_closes (s := s.leavingBlock) on silent
    rw [← State.takeLeave_eq] at closes
    rw [closes]
    exact ⟨rfl, rfl⟩
  · rw [channel 0]; rfl
  · intro c other
    rw [channel c]
    exact if_neg (Ne.symm other)
  · intro c
    obtain ⟨-, portError, readCopy⟩ := (s.channel c).left_ports s.station.timestamp (decide (c = s.config.routing.ring))
    rw [channel c]
    exact ⟨portError, readCopy⟩
  · intro c i
    rw [channel c, ← ChannelState.mem_notices]
    exact (s.channel c).left_notices s.station.timestamp _ ▸ List.not_mem_nil
  · rintro c _ _ routed rfl rfl hrouted
    rw [channel c, ← hrouted]
    refine ⟨fun none_ room other => ?_, fun none_ room here => ?_, fun none_ last here => ?_, fun none_ full => ?_,
      fun marked => ?_⟩
    · rw [other, ChannelState.left_unrouted _ none_ room]
      exact ⟨rfl, rfl⟩
    · rw [here, ChannelState.left_routed _ none_ room]
      exact ⟨rfl, rfl⟩
    · rw [here, ChannelState.left_last _ none_ last]
      exact ⟨rfl, rfl⟩
    · rw [ChannelState.left_of_full _ none_ full]
      exact ⟨rfl, rfl⟩
    · rw [ChannelState.left_of_marked _ marked]
      refine ⟨rfl, List.map_congr_left fun x _ => ?_⟩
      cases x with
      | entry i => exact ite_self _
      | marker set =>
        cases routed with
        | false => simp [DeferralItem.addClass, Suppressed.add]
        | true => simp [DeferralItem.addClass, Suppressed.add]

end Sys2Proof.Machine

namespace Sys2Proof.Machine

open Host.Outcome

/-! ### The timers of the Station Controller (R108, R110, R113) -/

/-- The hold-off's expiry stops its timer and looks at the upstream signal (R108). -/
theorem exec_joinHoldOffExpiry {s s1 : State} {k : Nat} (running : s.station.holdOff = some k)
    (stops : s1 = s.modifyStation ({ · with holdOff := none })) :
    exec .joinHoldOffExpiry s = next
      (if s.upstreamIsPresent then s1.addCensus else s1.modifyStation ({ · with awaitsUpstream := true })) := by
  simp only [exec, execJoinHoldOffExpiry, running, stops]

/-- The interval's expiry in UP (R110). -/
theorem exec_censusIntervalExpiry_up {s s1 : State} {k : Nat} (running : s.station.interval = some k)
    (up : s.station.state = .up)
    (restarts : s1 = s.modifyStation ({ · with interval := some s.config.settings.censusInterval })) :
    exec .censusIntervalExpiry s = next s1.addCensus := by
  simp only [exec, execCensusIntervalExpiry, running, up, State.nextInterval, restarts]

/-- The interval's expiry in DOWN: a census only over an upstream line that the station trusts (R110). -/
theorem exec_censusIntervalExpiry_down {s s1 : State} {k : Nat} (running : s.station.interval = some k)
    (down : s.station.state = .down)
    (restarts : s1 = s.modifyStation ({ · with interval := some s.config.settings.censusInterval })) :
    exec .censusIntervalExpiry s =
      next (if s.upstreamIsPresent ∧ s.station.faultScore ≤ 32 then s1.addCensus else s1) := by
  simp only [exec, execCensusIntervalExpiry, running, down, State.nextInterval, restarts, Config.trustScore]

/-- The interval's expiry in JOINING, where the timer is not restarted (R110). -/
theorem exec_censusIntervalExpiry_joining {s s1 : State} {k : Nat} (running : s.station.interval = some k)
    (joining : s.station.state = .joining) (stops : s1 = s.modifyStation ({ · with interval := none })) :
    exec .censusIntervalExpiry s = next
      (if s.upstreamIsPresent then s1.addCensus
        else if s.station.census = .none then s1.modifyStation ({ · with awaitsUpstream := true }) else s1) := by
  simp only [exec, execCensusIntervalExpiry, running, joining, State.nextInterval, stops]

/-- Settles O57: each expiry by the station state, and then by the census and the upstream signal. -/
theorem stationTimersDriveTheCensus : Obligations.StationTimersDriveTheCensus := by
  refine fun s s1 k => ⟨fun running stops => ?_, fun running => ⟨fun state restarts => ?_, fun joining stops => ?_⟩,
    fun serial origin circuit flight lost => ?_⟩
  · have census : s1.station.census = s.station.census := by rw [stops]; rfl
    rw [exec_joinHoldOffExpiry running stops]
    refine ⟨fun present idle => ?_, fun present busy => ?_, fun absent => ?_⟩
    · rw [if_pos present, State.addCensus_none (census.trans idle)]
    · rw [if_pos present, State.addCensus_not (census ▸ busy)]
    · rw [if_neg (Bool.not_eq_true _ ▸ absent)]
  · have census : s1.station.census = s.station.census := by rw [restarts]; rfl
    rcases state with up | down
    · rw [exec_censusIntervalExpiry_up running up restarts]
      refine ⟨fun idle _ => by rw [State.addCensus_none (census.trans idle)], fun refused => ?_⟩
      have busy : s.station.census ≠ .none := refused.resolve_right fun ⟨down, _⟩ => by
        rw [up] at down; cases down
      rw [State.addCensus_not (census ▸ busy)]
    · rw [exec_censusIntervalExpiry_down running down restarts]
      refine ⟨fun idle trusted => ?_, fun refused => ?_⟩
      · rw [if_pos (trusted.resolve_left (by rw [down]; decide)), State.addCensus_none (census.trans idle)]
      · split
        · next trusted =>
          have busy : s.station.census ≠ .none := refused.resolve_right fun ⟨_, untrusted⟩ =>
            untrusted.elim (fun absent => by simp [absent] at trusted) (Nat.not_lt.2 trusted.2)
          rw [State.addCensus_not (census ▸ busy)]
        · rfl
  · have census : s1.station.census = s.station.census := by rw [stops]; rfl
    rw [exec_censusIntervalExpiry_joining running joining stops]
    refine ⟨fun idle present => ?_, fun idle absent => ?_, fun busy => ?_⟩
    · rw [if_pos present, State.addCensus_none (census.trans idle)]
    · rw [if_neg (Bool.not_eq_true _ ▸ absent), if_pos idle]
    · rw [State.addCensus_not (census ▸ busy), if_neg busy, ite_self]
  · subst lost
    refine ⟨fun joining => ?_, fun up first => ?_, fun up second => ?_, fun down => ?_⟩
    · simp only [exec, execCensusLoss, flight, joining]
    · simp only [exec, execCensusLoss, flight, up, first, if_true]
      rw [State.addCensus_none rfl]
    · simp only [exec, execCensusLoss, flight, up, second, Nat.one_ne_zero, if_false]
      have still : (s.modifyStation ({ · with census := .none })).station.state = .up := up
      rw [State.enterDown_up still]
    · simp only [exec, execCensusLoss, flight, down]

end Sys2Proof.Machine

namespace Sys2Proof.Machine

open Host.Outcome

/-! ### The outputs (R91, R103, R127, R178, R182) -/

theorem State.byp_iff (s : State) : s.byp = true ↔ s.line.mode ≠ .bypassed := by
  cases mode : s.line.mode <;> simp [State.byp, mode]

theorem State.attn_iff (s : State) (c : Channel) : s.attn c = true ↔ (s.channel c).queue ≠ [] := by
  simp [State.attn, State.channel]

theorem State.ringOutWord_low {s : State} (low : s.rstnLow = true) : s.ringOutWord = none := if_pos low

theorem State.dataOut_low {s : State} (low : s.rstnLow = true) (c : Channel) : s.dataOut c = none := if_pos low

theorem Port.abandon_eq (p : Port) : p.abandon = if p = .idle then .idle else .ignored := by
  cases p <;> rfl

/-- A port whose transaction was abandoned stays at high impedance (log entry 25). -/
theorem State.dataOut_abandoned {s : State} {ports : Vector Port 4} (abandoned : s.ports = ports.map Port.abandon) (c : Channel) :
    s.dataOut c = none := by
  have port : s.port c = (ports.get c).abandon := by simp [State.port, abandoned, Vector.get_eq_getElem]
  unfold State.dataOut
  rw [port]
  split
  · rfl
  · cases ports.get c <;> rfl

/-! ### The block held in reset (R3, R103, R105, R144, R145, R165) -/

theorem State.atPort_low {s : State} (low : s.rstnLow = true) (act : State → State) : s.atPort act = s := if_pos low

theorem State.configCommand_low {s : State} (low : s.rstnLow = true) (ch : Channel) (code echo : Byte) (act : State → State) :
    s.configCommand ch code echo act = s := by
  rw [State.configCommand, State.channel0Only, State.atPort_low low]

/-- Every command of a channel acts at its port, which takes no transaction while RSTn is low (R178). -/
theorem exec_low {c : Instr} {s : State} {ch : Channel} (host : c.channel = some ch) (low : s.rstnLow = true) :
    exec c s = next s := by
  cases c with
  | start | configureStation | setChannelLimits | setWindow | setRoute =>
    exact congrArg next (State.configCommand_low low _ _ _ _)
  | claim | release | renew | query | status | members | resetChannel | resetChannelN | leave | unknownCommand
  | shortWriteCommand | readEvent | readAttention | unknownOpcode => exact congrArg next (State.atPort_low low _)
  | _ => cases host

/-- The block is held in reset, block by block. -/
theorem State.heldInReset_iff (s : State) : s.HeldInReset ↔
    s.lease = LeaseTable.reset ∧ s.frames = FrameProcessor.reset ∧ s.station = StationRecord.reset ∧
      s.line = LineInterface.reset ∧ s.channels = Vector.replicate 4 ChannelState.reset ∧ s.config = ConfigStore.reset ∧
      s.rstnLow = true := by
  cases s
  simp only [State.HeldInReset, State.reset, State.mk.injEq, true_and, and_true]

theorem State.HeldInReset.low {s : State} (held : s.HeldInReset) : s.rstnLow = true := by rw [held]

theorem State.HeldInReset.free {s : State} (held : s.HeldInReset) (i : EntryIx) : s.tenancy i = none := by
  rw [held]; exact State.reset_tenancy i

/-- The commands that wait are no part of what the reset holds. -/
theorem State.HeldInReset.pending {s : State} (held : s.HeldInReset) (rest : List Instr) :
    ({ s with pending := rest } : State).HeldInReset :=
  (State.heldInReset_iff _).2 (s.heldInReset_iff.1 held)

/-- BYP and every ATTN are deasserted, also at the rise of RSTn (R92, R144, R182). -/
theorem State.HeldInReset.pins {s : State} (held : s.HeldInReset) : s.byp = false ∧ ∀ c, s.attn c = false := by
  rw [held]
  exact ⟨rfl, fun c => by rw [← Bool.not_eq_true, State.attn_iff]; exact not_not.2 (congrArg _ (State.reset_channel c))⟩

/-- No command or event but the rise of RSTn and another device reset finds anything to act on. -/
theorem State.HeldInReset.exec_same {s : State} (held : s.HeldInReset) {c : Instr} (rise : c ≠ .resetRelease)
    (again : c ≠ .deviceReset) : exec c s = next s := by
  cases c with
  | deviceReset => exact absurd rfl again
  | resetRelease => exact absurd rfl rise
  | termTick i => simp only [exec, execTermTick, held.free]
  | termExpiry i => simp only [exec, execTermExpiry, held.free]
  | backoffExpiry i => simp only [exec, execBackoffExpiry, held.free]
  | claimCircuitTimeout i => simp only [exec, execClaimCircuitTimeout, held.free]
  | releaseCircuitTimeout i => simp only [exec, execReleaseCircuitTimeout, held.free]
  | upstreamPresent | upstreamSilent | frameArrival | frameBoundary | drainingEndSent | relaySettleExpiry
  | joinHoldOffExpiry | censusIntervalExpiry | censusLoss | leaseTableTakesStateChange | lineWordReceived _ | frameEndSent
  | stationTimestampTick => rw [held]; rfl
  | _ => exact exec_low rfl held.low

theorem exec_deviceReset_held {s t : State} (h : exec .deviceReset s = next t) : t.HeldInReset := by
  cases h; rfl

/-- No timer runs and nothing waits to be judged or taken. -/
theorem State.HeldInReset.due {s : State} (held : s.HeldInReset) : s.due = none := by
  obtain ⟨lease, frames, station, line, -⟩ := s.heldInReset_iff.1 held
  have quiet : ∀ i c, ¬ s.EntryExpires i c := fun i c ⟨u, tenancy, _⟩ => by rw [held.free] at tenancy; cases tenancy
  have timers := State.due_timers (s := s) (by rw [frames]; rfl) (by rw [lease]; rfl) quiet
  rw [station, line] at timers
  exact ((((timers.2 nofun).2 nofun).2 nofun).2 nofun).2 nofun

theorem LeaseTable.reset_tick : LeaseTable.reset.entries.map Entry.tick = LeaseTable.reset.entries := by
  simp [LeaseTable.reset, Entry.reset, Entry.tick]

/-- A period of the reference clock moves the timebase and puts events into the queue, and nothing else. -/
theorem State.HeldInReset.clockPeriod {s : State} (held : s.HeldInReset) : s.clockPeriod.HeldInReset := by
  obtain ⟨lease, frames, station, line, channels, config, low⟩ := s.heldInReset_iff.1 held
  obtain ⟨frames', channels', config', -, low', -⟩ := s.clockPeriod_same
  have sends : s.periodLine = LineInterface.reset := by
    rw [State.periodLine, State.wordTransmitter, if_pos low, ite_self, line]
  refine s.clockPeriod.heldInReset_iff.2 ⟨?_, frames'.trans frames, ?_, ?_, channels'.trans channels, config'.trans config,
    low'.trans low⟩
  · rw [s.clockPeriod_lease, lease, LeaseTable.reset_tick, ite_self]
  · rw [s.clockPeriod_station, station]; exact ite_self _
  · rw [s.clockPeriod_line, sends]; exact ite_self _

theorem step_front {s : State} {c : Instr} {rest : List Instr} (front : s.pending = c :: rest) :
    step s = exec c { s with pending := rest } := by
  simp only [step, front]

/-- Until RSTn rises every step leaves the block held in reset. -/
theorem State.HeldInReset.step_held {s : State} (held : s.HeldInReset) (low : s.pending.head? ≠ some .resetRelease) :
    ∃ t, step s = next t ∧ t.HeldInReset := by
  cases front : s.pending with
  | nil =>
    refine ⟨s.clockPeriod, ?_, held.clockPeriod⟩
    rw [step_idle front, State.idle, held.due]
  | cons c rest =>
    rw [step_front front]
    have still := held.pending rest
    by_cases again : c = .deviceReset
    · exact again ▸ ⟨_, rfl, exec_deviceReset_held rfl⟩
    · have rise : c ≠ .resetRelease := fun e => low (by rw [front, e]; rfl)
      exact ⟨_, still.exec_same rise again, still⟩

/-- Settles O5: the outputs from the values the reset leaves, and every step by the events that find nothing to act on. -/
theorem deviceResetActsInEveryState : Obligations.DeviceResetActsInEveryState := by
  refine fun s => ⟨?_, rfl, fun t reset => ?_, fun t => exec_deviceReset_held, fun held => ⟨?_, held.step_held⟩, s.byp_iff,
    s.attn_iff, fun c ch => exec_low⟩
  · simp only [← Port.abandon_eq]
    rfl
  · have held := exec_deviceReset_held reset
    have abandoned : t.ports = s.ports.map Port.abandon := by cases reset; rfl
    have word : t.line.transmitter = .idle 2 := by cases reset; rfl
    refine ⟨held.pins.1, held.pins.2, State.ringOutWord_low held.low, State.dataOut_low held.low, _, rfl, held.pins.1,
      held.pins.2, ?_, State.dataOut_abandoned abandoned⟩
    simp only [State.ringOutWord, word, Bool.false_eq_true, if_false]
  · exact ⟨held.pins.1, held.pins.2, State.ringOutWord_low held.low, State.dataOut_low held.low⟩

end Sys2Proof.Machine

namespace Sys2Proof.Machine

/-! ### One channel's queue and deferral list (R126, R132, R133, R136) -/

/-- A bounded queue without room holds 24 records: where items are deferred it holds that many anyhow. -/
theorem ChannelState.Bounded.length_of_noRoom {c : ChannelState} (h : c.Bounded) (noRoom : ¬ c.hasRoom = true) :
    c.queue.length = 24 := by
  by_cases none_ : c.deferral = []
  · have full : ¬ c.queue.length < 24 := by simpa [ChannelState.hasRoom, none_] using noRoom
    exact Nat.le_antisymm h.1 (Nat.le_of_not_lt full)
  · exact h.2 none_

/-- With 24 records in the queue the deferral list may hold anything. -/
theorem ChannelState.bounded_of_length {c : ChannelState} (full : c.queue.length = 24) : c.Bounded :=
  ⟨Nat.le_of_eq full, fun _ => full⟩

theorem ChannelState.bounded_enqueue {c : ChannelState} (room : c.hasRoom = true) (r : EventRecord) :
    (c.enqueue r).Bounded := by
  obtain ⟨short, none_⟩ : c.queue.length < 24 ∧ c.deferral = [] := by simpa [ChannelState.hasRoom] using room
  refine ⟨?_, fun items => absurd none_ items⟩
  simpa [ChannelState.enqueue] using short

@[simp] theorem ChannelState.suppress_queue (c : ChannelState) (cls : EventClass) : (c.suppress cls).queue = c.queue := by
  unfold ChannelState.suppress
  split <;> rfl

/-- A station event raised joins a queue with room, or changes the deferral list of a full one (R136). -/
theorem ChannelState.Bounded.raise {c : ChannelState} (h : c.Bounded) (cls : EventClass) (r : EventRecord) :
    (c.raise cls r).Bounded := by
  unfold ChannelState.raise
  split
  · next room => exact ChannelState.bounded_enqueue room r
  · next noRoom => exact ChannelState.bounded_of_length (by rw [c.suppress_queue]; exact h.length_of_noRoom noRoom)

/-- The queue stays, and no item joins an empty deferral list. -/
theorem ChannelState.Bounded.of_lists {c d : ChannelState} (h : c.Bounded) (queue : d.queue = c.queue)
    (deferral : c.deferral = [] → d.deferral = []) : d.Bounded := by
  unfold ChannelState.Bounded
  rw [queue]
  exact ⟨h.1, fun items => h.2 fun none_ => items (deferral none_)⟩

theorem ChannelState.Bounded.filter {c : ChannelState} (h : c.Bounded) (p : DeferralItem → Bool) :
    ({ c with deferral := c.deferral.filter p } : ChannelState).Bounded :=
  h.of_lists rfl fun none_ => by simp [none_]

/-! ### What keeps the queues of all channels bounded -/

/-- Queues and deferral lists within their bounds stay so. -/
structure State.QueuesKept (s t : State) : Prop where
  bounded : s.QueuesBounded → t.QueuesBounded

theorem State.QueuesKept.refl (s : State) : s.QueuesKept s := ⟨id⟩

theorem State.QueuesKept.trans {s t u : State} (h : s.QueuesKept t) (k : t.QueuesKept u) : s.QueuesKept u :=
  ⟨fun bounded => k.bounded (h.bounded bounded)⟩

theorem State.queuesKept_of_channels {s t : State} (channels : t.channels = s.channels) : s.QueuesKept t := by
  constructor
  simp only [State.QueuesBounded, State.channel, channels]
  exact id

theorem State.modifyChannel_queuesKept (s : State) (c : Channel) (f : ChannelState → ChannelState)
    (hf : (s.channel c).Bounded → (f (s.channel c)).Bounded) : s.QueuesKept (s.modifyChannel c f) where
  bounded := fun bounded d => by
    rw [State.modifyChannel_channel]
    split
    · exact hf (bounded c)
    · exact bounded d

theorem State.foldl_queuesKept {α : Type} {f : State → α → State} (hf : ∀ (s : State) a, s.QueuesKept (f s a)) (l : List α)
    (s : State) : s.QueuesKept (l.foldl f s) := by
  induction l generalizing s with
  | nil => exact .refl s
  | cons a l ih => exact (hf s a).trans (ih _)

/-! ### Notices and station events raised (R132, R136, R141) -/

/-- A notice joins a queue with room; only a full queue has it deferred, whether it takes a place in the list or is combined
with the one in the slot (R132, R134). -/
theorem State.raiseLease_queuesKept (s : State) (i : EntryIx) (kind : LeaseKind) (marks : Marks) :
    s.QueuesKept (s.raiseLease i kind marks) := by
  unfold State.raiseLease
  split
  · exact .refl s
  · next v _ =>
    split
    · next room => exact s.modifyChannel_queuesKept _ _ fun _ => ChannelState.bounded_enqueue room _
    · next noRoom =>
      split
      · have slot : s.QueuesKept (s.modifyTenancy i ({ · with deferred := some (s.noticeOf i v kind marks) })) :=
          State.queuesKept_of_channels rfl
        refine slot.trans (State.modifyChannel_queuesKept _ _ _ fun h => ?_)
        exact ChannelState.bounded_of_length (h.length_of_noRoom noRoom)
      · exact State.queuesKept_of_channels rfl

theorem State.raiseStation_queuesKept (s : State) (c : RoutingClass) (r : EventRecord) : s.QueuesKept (s.raiseStation c r) :=
  s.modifyChannel_queuesKept _ _ fun h => h.raise _ _

theorem State.raiseVoid_queuesKept (s : State) (c : Channel) : s.QueuesKept (s.raiseVoid c) :=
  s.modifyChannel_queuesKept _ _ fun h => h.raise _ _

theorem State.discardDeferred_queuesKept (s : State) (i : EntryIx) : s.QueuesKept (s.discardDeferred i) := by
  unfold State.discardDeferred
  split
  · exact .refl s
  · split
    · exact .refl s
    · exact (State.queuesKept_of_channels rfl : s.QueuesKept (s.modifyTenancy i ({ · with deferred := none }))).trans
        (State.modifyChannel_queuesKept _ _ _ fun h => h.filter _)

/-! ### Tenancies, examinations and releases (R9, R21, R57) -/

theorem State.endTenancy_queuesKept (s : State) (i : EntryIx) : s.QueuesKept (s.endTenancy i) :=
  State.queuesKept_of_channels (s.endTenancy_channels i)

theorem State.grant_queuesKept (s : State) (i : EntryIx) (handedOn : Bool) : s.QueuesKept (s.grant i handedOn) := by
  unfold State.grant
  split
  · exact .refl s
  · exact (State.queuesKept_of_channels rfl : s.QueuesKept (s.modifyTenancy i Tenancy.enterHeld)).trans
      (State.raiseLease_queuesKept _ _ _ _)

theorem State.deny_queuesKept (s : State) (i : EntryIx) (cause : DenyCause) (objector : Option StationNo) :
    s.QueuesKept (s.deny i cause objector) := by
  unfold State.deny
  split
  · exact .refl s
  · exact (s.raiseLease_queuesKept _ _ _).trans (State.endTenancy_queuesKept _ _)

theorem State.leaveWaiting_queuesKept (s : State) (i : EntryIx) : s.QueuesKept (s.leaveWaiting i) :=
  State.queuesKept_of_channels rfl

theorem State.treatHead_queuesKept (s : State) (i : EntryIx) (tag : Tag) (m : Mode) :
    s.QueuesKept (s.treatHead i tag m).1 := by
  unfold State.treatHead
  split
  · exact .refl s
  · exact .refl s
  · exact (s.leaveWaiting_queuesKept i).trans (State.grant_queuesKept _ _ _)
  · split
    · exact State.queuesKept_of_channels rfl
    · exact (s.leaveWaiting_queuesKept i).trans (State.deny_queuesKept _ _ _ _)

theorem State.examineLoop_queuesKept (tag : Tag) (n : Nat) (s : State) : s.QueuesKept (s.examineLoop tag n) := by
  induction n generalizing s with
  | zero => exact .refl s
  | succ n ih =>
    unfold State.examineLoop
    split
    · exact .refl s
    · split
      · exact .refl s
      · dsimp only
        split
        · exact (s.treatHead_queuesKept _ _ _).trans (ih _)
        · exact s.treatHead_queuesKept _ _ _

theorem State.examine_queuesKept (s : State) (tag : Tag) : s.QueuesKept (s.examine tag) :=
  State.examineLoop_queuesKept _ _ _

theorem State.handOn_queuesKept (s : State) (tag : Tag) : s.QueuesKept (s.handOn tag) := by
  unfold State.handOn
  split
  · exact .refl s
  · exact (s.leaveWaiting_queuesKept _).trans (State.grant_queuesKept _ _ _)

theorem State.examineAfter_queuesKept (s : State) (tag : Tag) (handOn : Bool) : s.QueuesKept (s.examineAfter tag handOn) := by
  unfold State.examineAfter
  split
  · exact (s.handOn_queuesKept tag).trans (State.examine_queuesKept _ _)
  · exact s.examine_queuesKept tag

theorem State.examineTags_queuesKept (s : State) (tags handOns : List Tag) : s.QueuesKept (s.examineTags tags handOns) :=
  State.foldl_queuesKept (fun s tag => s.examineAfter_queuesKept tag _) tags s

/-- The release procedure itself raises nothing. -/
theorem State.leaveHeld_channels (s : State) (i : EntryIx) : (s.leaveHeld i).1.channels = s.channels := by
  rcases s.leaveHeld_cases i with e | ⟨v, -, -, e | ⟨-, e | e⟩⟩
  · rw [e]
  · rw [e]; exact State.endTenancy_channels _ i
  · rw [e]; exact State.endTenancy_channels _ i
  · rw [e]; rfl

theorem State.releaseHeld_queuesKept (s : State) (i : EntryIx) (tag : Tag) : s.QueuesKept (s.releaseHeld i tag) :=
  (State.queuesKept_of_channels (s.leaveHeld_channels i)).trans (State.examineAfter_queuesKept _ _ _)

theorem State.endAndExamine_queuesKept (s : State) (i : EntryIx) (tag : Tag) : s.QueuesKept (s.endAndExamine i tag) :=
  (s.endTenancy_queuesKept i).trans (State.examine_queuesKept _ _)

theorem State.failAttempt_queuesKept (s : State) (i : EntryIx) (cause : FailCause) (objector : Option StationNo) :
    s.QueuesKept (s.failAttempt i cause objector) := by
  have refused : s.QueuesKept
      (s.modifyTenancy i ({ · with lastRefusal := some { cause := cause, objector := objector } })) :=
    State.queuesKept_of_channels rfl
  unfold State.failAttempt
  split
  · exact .refl s
  · dsimp only
    split
    · exact State.queuesKept_of_channels rfl
    · exact refused.trans ((State.deny_queuesKept _ _ _ _).trans (State.examine_queuesKept _ _))

theorem State.releaseEntry_queuesKept (s : State) (i : EntryIx) (t : Tenancy) : s.QueuesKept (s.releaseEntry i t) := by
  unfold State.releaseEntry
  split
  · dsimp only
    split
    · exact (s.endTenancy_queuesKept i).trans (State.examine_queuesKept _ _)
    · exact s.endTenancy_queuesKept i
  · exact s.endAndExamine_queuesKept i _
  · exact s.endAndExamine_queuesKept i _
  · exact s.endAndExamine_queuesKept i _
  · exact State.queuesKept_of_channels rfl
  · exact s.releaseHeld_queuesKept i _
  · exact .refl s

/-! ### READ EVENT (R138, R139) -/

/-- Where the queue has just given up a record, holding 23 while items wait, the oldest item that moves in makes it 24 again, or
none is left to wait (R139). -/
theorem State.moveIn_bounded (c : Channel) (l : List DeferralItem) (s : State) (room : (s.channel c).queue.length ≤ 23)
    (waits : l ≠ [] → (s.channel c).queue.length = 23) (others : ∀ d, d ≠ c → (s.channel d).Bounded) :
    (State.moveIn c l s).QueuesBounded := by
  have delivered (f : ChannelState → ChannelState) (h : (f (s.channel c)).Bounded) : (s.modifyChannel c f).QueuesBounded :=
    fun d => by
      rw [State.modifyChannel_channel]
      split
      · exact h
      · next e => exact others d (Ne.symm e)
  induction l with
  | nil => exact delivered _ ⟨Nat.le_succ_of_le room, fun items => absurd rfl items⟩
  | cons x rest ih =>
    have last := waits (by simp)
    have filled (r : EventRecord) : (s.modifyChannel c
        fun x => { x with deferral := rest, queue := x.queue ++ [r] }).QueuesBounded :=
      delivered _ (ChannelState.bounded_of_length (by simp [last]))
    cases x with
    | marker set => exact filled _
    | entry i =>
      unfold State.moveIn
      split
      · next n _ _ _ =>
        dsimp only
        split
        · exact (State.endAndExamine_queuesKept _ _ _).bounded (filled (.lease n))
        · exact filled (.lease n)
      · exact ih fun _ => last

theorem State.readEvent_queuesKept (s : State) (c : Channel) : s.QueuesKept (s.readEvent c) := by
  unfold State.readEvent
  split
  · exact s.modifyChannel_queuesKept c _ fun h => h.of_lists rfl id
  · next r rest queue =>
    refine ⟨fun bounded => ?_⟩
    obtain ⟨most, full⟩ := bounded c
    simp only [queue, List.length_cons] at most full
    refine State.moveIn_bounded c _ _ ?_ ?_ fun d other => ?_
    · rw [State.modifyChannel_channel_same]
      exact Nat.le_of_succ_le_succ most
    · rw [State.modifyChannel_channel_same]
      exact fun items => Nat.succ.inj (full items)
    · rw [State.modifyChannel_channel, if_neg other.symm]
      exact bounded d

end Sys2Proof.Machine

namespace Sys2Proof.Machine

/-! ### A channel reset (R71, R142) -/

theorem State.resetEvents_queuesKept (s : State) (c : Channel) : s.QueuesKept (s.resetEvents c) :=
  (State.queuesKept_of_channels rfl : s.QueuesKept
    { s with lease := { s.lease with entries := s.lease.entries.map (Entry.emptySlotOf c) } }).trans
    (State.modifyChannel_queuesKept _ c _ fun _ => ⟨Nat.zero_le _, fun items => absurd rfl items⟩)

theorem State.resetReleases_channels (c : Channel) (l : List EntryIx) (r : State × List Tag) :
    (l.foldl (State.resetRelease c) r).1.channels = r.1.channels := by
  have one (r : State × List Tag) (i : EntryIx) : (State.resetRelease c r i).1.channels = r.1.channels := by
    unfold State.resetRelease
    split
    · split
      · exact r.1.leaveHeld_channels i
      · rfl
    · rfl
  induction l generalizing r with
  | nil => rfl
  | cons i l ih => exact (ih _).trans (one r i)

/-- The queue and the deferral list of the channel are emptied, and the examinations raise notices as always. -/
theorem State.channelReset_queuesKept (s : State) (c : Channel) : s.QueuesKept (s.channelReset c) := by
  have released : (s.resetReleased c).1.channels = (s.resetEvents c).channels :=
    calc (s.resetReleased c).1.channels
      _ = (s.resetDetached c).channels := by
        rw [State.resetReleased]; exact State.resetReleases_channels c allIx (s.resetDetached c, [])
      _ = (s.resetFreed c).channels := (State.resetDetach_foldl_lists c allIx _).2.2
      _ = (s.resetEvents c).channels := (s.resetFreed_frees c).channels
  rw [State.channelReset_eq]
  exact (s.resetEvents_queuesKept c).trans
    ((State.queuesKept_of_channels released).trans (State.examineTags_queuesKept _ _ _))

/-! ### Changes of the station state at the Lease Table (R47, R66) -/

theorem State.changeEntry_queuesKept (cause : DenyCause) (s : State) (i : EntryIx) :
    s.QueuesKept (State.changeEntry cause s i) := by
  unfold State.changeEntry
  split
  · exact .refl s
  · split
    · split
      · exact s.deny_queuesKept i _ _
      · exact s.endTenancy_queuesKept i
    · exact s.deny_queuesKept i _ _
    · exact s.endTenancy_queuesKept i
    all_goals exact .refl s

theorem State.applyChange_queuesKept (s : State) (x : StationState) : s.QueuesKept (s.applyChange x) :=
  (State.queuesKept_of_channels rfl : s.QueuesKept (s.setTaken x)).trans
    ((State.foldl_queuesKept (State.changeEntry_queuesKept _) allIx _).trans (State.examineTags_queuesKept _ _ _))

theorem State.absorbUp_queuesKept (s : State) : s.QueuesKept s.absorbUp := by
  unfold State.absorbUp
  split
  · exact State.queuesKept_of_channels rfl
  · exact .refl s

theorem State.takeChange_queuesKept (s : State) : s.QueuesKept s.takeChange := by
  unfold State.takeChange
  split
  · exact .refl s
  · exact s.absorbUp_queuesKept
  · next rest _ _ =>
    exact (State.queuesKept_of_channels rfl : s.QueuesKept (s.setChanges rest)).trans
      ((State.applyChange_queuesKept _ _).trans (State.absorbUp_queuesKept _))

theorem State.takeChangesN_queuesKept (n : Nat) (s : State) : s.QueuesKept (State.takeChangesN n s) := by
  induction n generalizing s with
  | zero => exact .refl s
  | succ n ih => exact s.takeChange_queuesKept.trans (ih _)

theorem State.drawOrder_queuesKept (s : State) : s.QueuesKept s.drawOrder := by
  have counted : s.QueuesKept { s with choices := s.choices + 1 } := State.queuesKept_of_channels rfl
  unfold State.drawOrder
  split
  · exact counted.trans (State.takeChangesN_queuesKept _ _)
  · exact counted

/-! ### The Station Controller (R109 to R123) -/

theorem State.modifyStation_queuesKept (s : State) (f : StationRecord → StationRecord) : s.QueuesKept (s.modifyStation f) :=
  State.queuesKept_of_channels rfl

theorem State.setSendList_queuesKept (s : State) (l : List SendItem) : s.QueuesKept (s.setSendList l) :=
  State.queuesKept_of_channels rfl

theorem State.tellLease_queuesKept (s : State) (x : StationState) : s.QueuesKept (s.tellLease x) := by
  unfold State.tellLease
  split <;> exact State.queuesKept_of_channels rfl

theorem State.addCensus_queuesKept (s : State) : s.QueuesKept s.addCensus := by
  unfold State.addCensus
  split
  · exact State.queuesKept_of_channels rfl
  · exact .refl s

/-- RING_STATE with the change told to the Lease Table. -/
theorem State.raiseRingState_tellLease_queuesKept (s : State) (cause : RingCause) (x : StationState) (dup : Option StationNo) :
    s.QueuesKept ((s.raiseRingState cause x dup).tellLease x) :=
  (s.raiseStation_queuesKept _ _).trans (State.tellLease_queuesKept _ _)

theorem State.enterDown_queuesKept (s : State) (cause : RingCause) : s.QueuesKept (s.enterDown cause) := by
  unfold State.enterDown
  split
  · exact (s.modifyStation_queuesKept _).trans (State.raiseRingState_tellLease_queuesKept _ _ _ _)
  · exact .refl s

theorem State.enterHalted_queuesKept (s : State) : s.QueuesKept s.enterHalted := by
  unfold State.enterHalted
  split
  · exact (s.modifyStation_queuesKept _).trans
      ((State.setSendList_queuesKept _ _).trans (State.raiseRingState_tellLease_queuesKept _ _ _ _))
  · exact .refl s

theorem State.enterUp_queuesKept (s : State) (members : List Member) (cause : RingCause) :
    s.QueuesKept (s.enterUp members cause) :=
  (s.modifyStation_queuesKept _).trans (State.raiseRingState_tellLease_queuesKept _ _ _ _)

theorem State.raiseMembership_queuesKept (s : State) (previous members : List Member) :
    s.QueuesKept (s.raiseMembership previous members) := by
  unfold State.raiseMembership
  split
  · exact .refl s
  · exact s.raiseStation_queuesKept _ _

theorem State.reportDamaged_queuesKept (s : State) : s.QueuesKept s.reportDamaged := by
  have scored := s.modifyStation_queuesKept ({ · with faultScore := scoreDamaged s.station.faultScore })
  have warned (r : EventRecord) := scored.trans
    ((State.modifyStation_queuesKept _ ({ · with faultWarning := true })).trans (State.raiseStation_queuesKept _ .faults r))
  unfold State.reportDamaged
  dsimp only
  split
  · split
    · exact (warned _).trans (State.enterDown_queuesKept _ _)
    · exact scored.trans (State.enterDown_queuesKept _ _)
  · split
    · exact warned _
    · exact scored

theorem State.reportIntact_queuesKept (s : State) : s.QueuesKept s.reportIntact := by
  unfold State.reportIntact
  dsimp only
  split
  · exact (s.modifyStation_queuesKept _).trans
      ((State.modifyStation_queuesKept _ _).trans (State.raiseStation_queuesKept _ _ _))
  · exact s.modifyStation_queuesKept _

theorem State.adoptCensus_queuesKept (s : State) (members : List Member) : s.QueuesKept (s.adoptCensus members) := by
  unfold State.adoptCensus
  split
  · exact s.enterUp_queuesKept _ _
  · exact (s.modifyStation_queuesKept _).trans (State.raiseMembership_queuesKept _ _ _)
  · split
    · exact (s.enterUp_queuesKept _ _).trans (State.raiseMembership_queuesKept _ _ _)
    · exact s.modifyStation_queuesKept _
  all_goals exact .refl s

theorem State.censusReturn_queuesKept (s : State) (serial : Byte) (members : List Member) :
    s.QueuesKept (s.censusReturn serial members) := by
  unfold State.censusReturn
  split
  · split
    · dsimp only
      split
      · exact (s.modifyStation_queuesKept _).trans (State.enterHalted_queuesKept _)
      · exact (s.modifyStation_queuesKept _).trans (State.adoptCensus_queuesKept _ _)
    · exact .refl s
  all_goals exact .refl s

/-! ### Arrivals (R28 to R44, R79 to R84) -/

theorem State.claimReturn_queuesKept (s : State) (serial : Byte) (tag : Tag) (held yield : Bool)
    (objector : Option StationNo) : s.QueuesKept (s.claimReturn serial tag held yield objector) := by
  unfold State.claimReturn
  split
  · exact .refl s
  · split
    · exact .refl s
    · split
      · exact s.endAndExamine_queuesKept _ _
      · split
        · exact s.failAttempt_queuesKept _ _ _
        · split
          · exact s.failAttempt_queuesKept _ _ _
          · split
            · exact s.failAttempt_queuesKept _ _ _
            · exact (s.grant_queuesKept _ _).trans (State.examine_queuesKept _ _)

theorem State.releaseReturn_queuesKept (s : State) (serial : Byte) (tag : Tag) :
    s.QueuesKept (s.releaseReturn serial tag) := by
  unfold State.releaseReturn
  split
  · exact .refl s
  · exact s.endAndExamine_queuesKept _ _

theorem State.demandOn_queuesKept (tag : Tag) (claimant : StationNo) (s : State) (i : EntryIx) :
    s.QueuesKept (State.demandOn tag claimant s i) := by
  rcases s.demandOn_cases tag claimant i with ⟨same, -⟩ | ⟨u, remaining, demand, -, -, -, ⟨-, e⟩ | ⟨-, e⟩⟩
  · rw [same]; exact .refl s
  · rw [e]; exact State.queuesKept_of_channels rfl
  · rw [e]
    exact (State.queuesKept_of_channels rfl : s.QueuesKept (s.modifyTenancy i _)).trans (State.raiseLease_queuesKept _ _ _ _)

theorem State.claimPasses_queuesKept (s : State) (tag : Tag) (m : Mode) (standing : Nat) (claimant : StationNo)
    (k : ClaimMarks) : s.QueuesKept (s.claimPasses tag m standing claimant k).1 := by
  have holder : s.QueuesKept (s.objectAsHolder tag claimant k).1 := by
    unfold State.objectAsHolder
    generalize allIx = l
    exact State.foldl_queuesKept (State.demandOn_queuesKept tag claimant) l s
  have contest (i : EntryIx) (own : Nat) : s.QueuesKept (s.contest i own standing claimant k).1 := by
    unfold State.contest
    dsimp only
    split
    · exact .refl s
    · split <;> exact State.queuesKept_of_channels rfl
  unfold State.claimPasses
  split
  · exact holder
  · split
    · exact holder
    · exact .refl s
  · split
    · exact contest _ _
    · exact .refl s
  · exact .refl s

theorem State.releasePasses_queuesKept (s : State) (tag : Tag) : s.QueuesKept (s.releasePasses tag) := by
  unfold State.releasePasses
  split
  · exact State.queuesKept_of_channels rfl
  · exact .refl s

theorem State.intoTransit_queuesKept (s : State) (ws : List Word) : s.QueuesKept (s.intoTransit ws) := by
  unfold State.intoTransit
  split
  · exact State.queuesKept_of_channels rfl
  · exact .refl s

theorem State.passFrame_queuesKept (s : State) (f : Frame) (ws : List Word) : s.QueuesKept (s.passFrame f ws) := by
  unfold State.passFrame
  split
  · exact (s.claimPasses_queuesKept _ _ _ _ _).trans (State.intoTransit_queuesKept _ _)
  · exact (s.releasePasses_queuesKept _).trans (State.intoTransit_queuesKept _ _)
  · next members _ =>
    have halted : s.QueuesKept (if s.listsDuplicate members = true then s.enterHalted else s) := by
      split
      · exact s.enterHalted_queuesKept
      · exact .refl s
    dsimp only
    split
    · exact halted
    · exact halted.trans (State.intoTransit_queuesKept _ _)

theorem State.foreignFrame_queuesKept (s : State) (f : Frame) (ws : List Word) : s.QueuesKept (s.foreignFrame f ws) := by
  have reported : s.QueuesKept (if s.ownNumber f then s.enterHalted else s) := by
    split
    · exact s.enterHalted_queuesKept
    · exact .refl s
  have drawn (u : State) : u.QueuesKept (if s.reportsDuplicate f then u.drawOrder else u) := by
    split
    · exact u.drawOrder_queuesKept
    · exact .refl u
  unfold State.foreignFrame
  dsimp only
  split
  · exact reported
  · exact reported.trans ((drawn _).trans (State.passFrame_queuesKept _ _ _))

theorem State.ownReturn_queuesKept (s : State) (f : Frame) : s.QueuesKept (s.ownReturn f) := by
  unfold State.ownReturn
  split
  · exact s.claimReturn_queuesKept _ _ _ _ _
  · exact s.releaseReturn_queuesKept _ _
  · exact s.censusReturn_queuesKept _ _

theorem State.takeArrival_queuesKept (s : State) (a : Arrival) : s.QueuesKept (s.takeArrival a) := by
  unfold State.takeArrival
  split
  · exact s.reportDamaged_queuesKept
  · dsimp only
    split
    · exact s.reportIntact_queuesKept.trans (State.ownReturn_queuesKept _ _)
    · exact s.reportIntact_queuesKept.trans (State.foreignFrame_queuesKept _ _ _)

theorem State.judgeNext_queuesKept (s : State) (a : Arrival) (rest : List Arrival) : s.QueuesKept (s.judgeNext a rest) := by
  have taken : s.QueuesKept (s.modifyFrames ({ · with arrivals := rest })) := State.queuesKept_of_channels rfl
  unfold State.judgeNext
  dsimp only
  split
  · exact taken.trans (State.takeArrival_queuesKept _ _)
  · exact taken

theorem State.judgeWaiting_queuesKept (l : List Arrival) (s : State) : s.QueuesKept (State.judgeWaiting l s) := by
  induction l generalizing s with
  | nil => exact .refl s
  | cons a l ih => exact (s.judgeNext_queuesKept a l).trans (ih _)

/-! ### LEAVE and START (R107, R121, R143) -/

theorem State.freeEntries_queuesKept (s : State) : s.QueuesKept s.freeEntries where
  bounded := fun bounded c => by
    rw [s.freeEntries_channel]
    exact (bounded c).filter _

theorem State.voided_queuesKept (s : State) : s.QueuesKept s.voided where
  bounded := fun bounded c => by
    rw [s.voided_channel]
    exact (bounded c).raise _ _

theorem State.lineLeave_channels (s : State) : s.lineLeave.channels = s.channels := by
  unfold State.lineLeave
  dsimp only
  split <;> rfl

theorem State.takeLeave_queuesKept (s : State) : s.QueuesKept s.takeLeave := by
  have freed : s.QueuesKept s.leavingFreed :=
    ((s.modifyStation_queuesKept _).trans (State.freeEntries_queuesKept _)).trans (State.queuesKept_of_channels rfl)
  rw [State.takeLeave_eq, State.leavingBlock_eq]
  exact (freed.trans (State.voided_queuesKept _)).trans
    ((State.raiseStation_queuesKept _ _ _).trans (State.queuesKept_of_channels (State.lineLeave_channels _)))

theorem State.takeStart_queuesKept (s : State) : s.QueuesKept s.takeStart := by
  unfold State.takeStart
  exact (s.modifyStation_queuesKept _).trans
    ((State.raiseStation_queuesKept _ _ _).trans (State.queuesKept_of_channels rfl))

end Sys2Proof.Machine

namespace Sys2Proof.Machine

open Host.Outcome

/-! ### Answers and the ports' own items -/

theorem State.answer_queuesKept (s : State) (ch : Channel) (code echo : Byte) (status : Status) (values : ResultValues) :
    s.QueuesKept (s.answer ch code echo status values) :=
  s.modifyChannel_queuesKept _ _ fun h => h.of_lists rfl id

theorem State.QueuesKept.answer {s t : State} (h : s.QueuesKept t) (ch : Channel) (code echo : Byte) (status : Status)
    (values : ResultValues) : s.QueuesKept (t.answer ch code echo status values) := h.trans (t.answer_queuesKept ..)

theorem State.QueuesKept.of_next {s t : State} {x : Host.Outcome State Fault Refusal}
    (h : ∃ r, x = next r ∧ s.QueuesKept r) (e : x = next t) : s.QueuesKept t := by
  obtain ⟨r, hr, k⟩ := h
  rw [hr] at e; cases e
  exact k

/-- An act at a port that leaves the queue and the deferral list of its channel alone. -/
theorem State.atPort_queuesKept (s : State) (ch : Channel) {f : ChannelState → ChannelState}
    (queue : ∀ x, (f x).queue = x.queue) (deferral : ∀ x, (f x).deferral = x.deferral) :
    s.QueuesKept (s.atPort fun s => s.modifyChannel ch f) :=
  State.atPort_of (.refl s) (s.modifyChannel_queuesKept _ _ fun h => h.of_lists (queue _) fun none_ => (deferral _).trans none_)

/-! ### The commands of a channel (R67, R107, R121, R151, R160) -/

/-- An accepted claim opens its entry without an event, and raises GRANTED at most. -/
theorem State.accept_queuesKept (s : State) (i : EntryIx) (t : Tenancy) : s.QueuesKept (s.accept i t).1 := by
  have opened : s.QueuesKept (s.openTenancy i t) := State.queuesKept_of_channels rfl
  have waits : s.QueuesKept ((s.openTenancy i t).setWaiting (s.lease.waiting ++ [i])) := State.queuesKept_of_channels rfl
  unfold State.accept
  dsimp only
  split
  · split
    · exact waits
    · exact waits
    · exact opened.trans (State.grant_queuesKept _ _ _)
    · exact State.queuesKept_of_channels rfl
  · exact waits

theorem State.execClaim_queuesKept (s : State) (ch : Channel) (echo : Byte) (tag : Tag) (mode priority : Byte) (term : Word)
    (limit : Byte) : ∃ t, execClaim ch echo tag mode priority term limit s = next t ∧ s.QueuesKept t := by
  refine ⟨_, rfl, State.atPort_of (.refl s) ?_⟩
  split
  · exact s.answer_queuesKept ..
  · split
    · exact s.answer_queuesKept ..
    · exact (s.accept_queuesKept _ _).answer ..

theorem State.execRelease_queuesKept (s : State) (ch : Channel) (echo index generation : Byte) :
    ∃ t, execRelease ch echo index generation s = next t ∧ s.QueuesKept t :=
  ⟨_, rfl, State.handleCommand_of (.refl s) (fun _ _ => s.answer_queuesKept ..) fun i _ _ =>
    ((s.discardDeferred_queuesKept i).trans (State.releaseEntry_queuesKept _ _ _)).answer ..⟩

theorem State.execRenew_queuesKept (s : State) (ch : Channel) (echo index generation : Byte) (term : Word) :
    ∃ t, execRenew ch echo index generation term s = next t ∧ s.QueuesKept t := by
  refine ⟨_, rfl, State.handleCommand_of (.refl s) (fun _ _ => s.answer_queuesKept ..) fun i v _ => ?_⟩
  split
  · exact s.answer_queuesKept ..
  · split
    · exact (State.queuesKept_of_channels rfl : s.QueuesKept (s.modifyTenancy i (Tenancy.renew term.toNat))).answer ..
    · exact s.answer_queuesKept ..

theorem State.execResetChannelN_queuesKept (s : State) (ch : Channel) (echo target : Byte) :
    ∃ t, execResetChannelN ch echo target s = next t ∧ s.QueuesKept t := by
  refine ⟨_, rfl, State.channel0Only_of (.refl s) (fun _ _ => s.answer_queuesKept ..) ?_⟩
  dsimp only
  split
  · exact s.answer_queuesKept ..
  · exact ((s.channelReset_queuesKept _).answer ..).answer ..

theorem State.execStart_queuesKept (s : State) (ch : Channel) (echo : Byte) :
    ∃ t, execStart ch echo s = next t ∧ s.QueuesKept t := by
  refine ⟨_, rfl, State.configCommand_of (.refl s) (fun _ _ => s.answer_queuesKept ..) fun _ _ => ?_⟩
  split
  · exact s.takeStart_queuesKept.answer ..
  · exact s.answer_queuesKept ..

theorem State.execLeave_queuesKept (s : State) (ch : Channel) (echo : Byte) :
    ∃ t, execLeave ch echo s = next t ∧ s.QueuesKept t := by
  refine ⟨_, rfl, State.channel0Only_of (.refl s) (fun _ _ => s.answer_queuesKept ..) ?_⟩
  split
  · exact s.answer_queuesKept ..
  · exact ((State.judgeWaiting_queuesKept _ s).trans (State.takeLeave_queuesKept _)).answer ..

/-! ### The configuration commands (R164 to R174) -/

/-- A change of the configuration touches no channel. -/
theorem State.modifyConfig_queuesKept (s : State) (f : ConfigStore → ConfigStore) : s.QueuesKept (s.modifyConfig f) :=
  State.queuesKept_of_channels rfl

theorem State.configCommand_queuesKept {s : State} {ch : Channel} {code echo : Byte} {act : State → State}
    (acts : s.QueuesKept (act s)) : s.QueuesKept (s.configCommand ch code echo act) :=
  State.configCommand_of (.refl s) (fun _ _ => s.answer_queuesKept ..) fun _ _ => acts

theorem State.execConfigureStation_queuesKept (s : State) (ch : Channel)
    (echo number ringLimit circuitTimeout retryInterval censusSteps margin : Byte) :
    ∃ t, execConfigureStation ch echo number ringLimit circuitTimeout retryInterval censusSteps margin s = next t ∧
      s.QueuesKept t := by
  refine ⟨_, rfl, State.configCommand_queuesKept ?_⟩
  split
  · exact s.answer_queuesKept ..
  · exact (s.modifyConfig_queuesKept _).answer ..

theorem State.execSetChannelLimits_queuesKept (s : State) (ch : Channel) (echo target quota ceiling : Byte) (maxTerm : Word) :
    ∃ t, execSetChannelLimits ch echo target quota ceiling maxTerm s = next t ∧ s.QueuesKept t := by
  refine ⟨_, rfl, State.configCommand_queuesKept ?_⟩
  split
  · exact (s.modifyConfig_queuesKept _).answer ..
  · exact s.answer_queuesKept ..

theorem State.execSetWindow_queuesKept (s : State) (ch : Channel) (echo target window : Byte) (value mask : Tag)
    (enabled shared exclusive : Bool) :
    ∃ t, execSetWindow ch echo target window value mask enabled shared exclusive s = next t ∧ s.QueuesKept t := by
  refine ⟨_, rfl, State.configCommand_queuesKept ?_⟩
  dsimp only
  split
  · exact (s.modifyConfig_queuesKept _).answer ..
  · exact s.answer_queuesKept ..

theorem State.execSetRoute_queuesKept (s : State) (ch : Channel) (echo routingClass target : Byte) :
    ∃ t, execSetRoute ch echo routingClass target s = next t ∧ s.QueuesKept t := by
  refine ⟨_, rfl, State.configCommand_queuesKept ?_⟩
  split
  · exact (s.modifyConfig_queuesKept _).answer ..
  · exact s.answer_queuesKept ..

/-! ### The timers of the entries (R40 to R43, R52 to R54, R65) -/

theorem State.execTermTick_queuesKept (s : State) (i : EntryIx) : ∃ t, execTermTick i s = next t ∧ s.QueuesKept t := by
  refine ⟨_, rfl, ?_⟩
  split
  · exact .refl s
  · split
    · split
      · exact (State.queuesKept_of_channels rfl : s.QueuesKept (s.modifyTenancy i _)).trans
          (State.raiseLease_queuesKept _ _ _ _)
      · exact State.queuesKept_of_channels rfl
    all_goals exact .refl s

theorem State.execTermExpiry_queuesKept (s : State) (i : EntryIx) : ∃ t, execTermExpiry i s = next t ∧ s.QueuesKept t := by
  refine ⟨_, rfl, ?_⟩
  split
  · exact .refl s
  · split
    · exact (s.raiseLease_queuesKept _ _ _).trans (State.releaseHeld_queuesKept _ _ _)
    all_goals exact .refl s

theorem State.execBackoffExpiry_queuesKept (s : State) (i : EntryIx) :
    ∃ t, execBackoffExpiry i s = next t ∧ s.QueuesKept t := by
  refine ⟨_, rfl, ?_⟩
  split
  · exact .refl s
  · split
    · exact State.queuesKept_of_channels rfl
    all_goals exact .refl s

theorem State.execClaimCircuitTimeout_queuesKept (s : State) (i : EntryIx) :
    ∃ t, execClaimCircuitTimeout i s = next t ∧ s.QueuesKept t := by
  refine ⟨_, rfl, ?_⟩
  split
  · exact .refl s
  · split
    · split
      · exact s.failAttempt_queuesKept _ _ _
      · exact s.endAndExamine_queuesKept _ _
    all_goals exact .refl s

theorem State.execReleaseCircuitTimeout_queuesKept (s : State) (i : EntryIx) :
    ∃ t, execReleaseCircuitTimeout i s = next t ∧ s.QueuesKept t := by
  refine ⟨_, rfl, ?_⟩
  split
  · exact .refl s
  · split
    · exact s.endAndExamine_queuesKept _ _
    all_goals exact .refl s

/-! ### Events of line and station (R79 to R113) -/

theorem State.originateItem_channels (s : State) (item : SendItem) : (s.originateItem item).channels = s.channels := by
  cases item with
  | claim i =>
    unfold State.originateItem
    dsimp only
    split
    · rfl
    · split <;> rfl
  | release i =>
    unfold State.originateItem
    dsimp only
    split
    · rfl
    · split <;> rfl
  | census => rfl

theorem State.boundary_channels (s : State) : s.boundary.channels = s.channels := by
  unfold State.boundary
  split
  · rfl
  · split
    · exact State.originateItem_channels _ _
    · rfl

theorem State.receive_channels (s : State) (w : LineWord) : (s.receive w).channels = s.channels := by
  unfold State.receive
  split
  · split <;> rfl
  · split
    · split <;> rfl
    all_goals rfl

theorem State.detectWord_queuesKept (s : State) : s.QueuesKept s.detectWord := by
  have seen : s.QueuesKept (s.modifyLine ({ · with detector := .present Config.silenceMicros })) :=
    State.queuesKept_of_channels rfl
  unfold State.detectWord State.reportPresent
  dsimp only
  split
  · split
    · exact seen.trans (State.addCensus_queuesKept _)
    · exact seen
  · exact seen

theorem State.becomeSilent_queuesKept (s : State) : s.QueuesKept s.becomeSilent := by
  unfold State.becomeSilent
  refine State.QueuesKept.trans ?_ (State.enterDown_queuesKept _ _)
  split <;> exact State.queuesKept_of_channels rfl

theorem State.execUpstreamPresent_queuesKept (s : State) : ∃ t, execUpstreamPresent s = next t ∧ s.QueuesKept t := by
  refine ⟨_, rfl, ?_⟩
  split
  · exact s.detectWord_queuesKept
  · exact .refl s

theorem State.execUpstreamSilent_queuesKept (s : State) : ∃ t, execUpstreamSilent s = next t ∧ s.QueuesKept t := by
  refine ⟨_, rfl, ?_⟩
  split
  · exact s.becomeSilent_queuesKept
  · exact .refl s

theorem State.execLineWordReceived_queuesKept (s : State) (w : LineWord) :
    ∃ t, execLineWordReceived w s = next t ∧ s.QueuesKept t := by
  have seen : s.QueuesKept (if wordIsValid w then s.detectWord else s) := by
    split
    · exact s.detectWord_queuesKept
    · exact .refl s
  refine ⟨_, rfl, ?_⟩
  split
  · exact seen.trans (State.queuesKept_of_channels (State.receive_channels _ _))
  · exact .refl s

theorem State.execFrameArrival_queuesKept (s : State) : ∃ t, execFrameArrival s = next t ∧ s.QueuesKept t := by
  refine ⟨_, rfl, ?_⟩
  split
  · exact .refl s
  · exact s.judgeNext_queuesKept _ _

theorem State.execFrameBoundary_queuesKept (s : State) : ∃ t, execFrameBoundary s = next t ∧ s.QueuesKept t := by
  refine ⟨_, rfl, ?_⟩
  split
  · exact State.queuesKept_of_channels s.boundary_channels
  · exact State.queuesKept_of_channels s.boundary_channels
  all_goals exact .refl s

theorem State.execFrameEndSent_queuesKept (s : State) : ∃ t, execFrameEndSent s = next t ∧ s.QueuesKept t := by
  refine ⟨_, rfl, ?_⟩
  split <;> exact State.queuesKept_of_channels rfl

theorem State.execDrainingEndSent_queuesKept (s : State) : ∃ t, execDrainingEndSent s = next t ∧ s.QueuesKept t := by
  refine ⟨_, rfl, ?_⟩
  split <;> exact State.queuesKept_of_channels rfl

theorem State.execRelaySettleExpiry_queuesKept (s : State) : ∃ t, execRelaySettleExpiry s = next t ∧ s.QueuesKept t := by
  refine ⟨_, rfl, ?_⟩
  split <;> exact State.queuesKept_of_channels rfl

theorem State.execJoinHoldOffExpiry_queuesKept (s : State) : ∃ t, execJoinHoldOffExpiry s = next t ∧ s.QueuesKept t := by
  refine ⟨_, rfl, ?_⟩
  split
  · exact .refl s
  · dsimp only
    split
    · exact (s.modifyStation_queuesKept _).trans (State.addCensus_queuesKept _)
    · exact State.queuesKept_of_channels rfl

theorem State.execCensusIntervalExpiry_queuesKept (s : State) :
    ∃ t, execCensusIntervalExpiry s = next t ∧ s.QueuesKept t := by
  have counted := s.modifyStation_queuesKept ({ · with interval := s.nextInterval })
  have queued := counted.trans (State.addCensus_queuesKept _)
  refine ⟨_, rfl, ?_⟩
  split
  · exact .refl s
  · dsimp only
    split
    · exact queued
    · split
      · exact queued
      · exact counted
    · split
      · exact queued
      · split <;> exact State.queuesKept_of_channels rfl
    all_goals exact counted

theorem State.execCensusLoss_queuesKept (s : State) : ∃ t, execCensusLoss s = next t ∧ s.QueuesKept t := by
  have lost := s.modifyStation_queuesKept ({ · with census := .none })
  refine ⟨_, rfl, ?_⟩
  split
  · exact .refl s
  · exact .refl s
  · dsimp only
    split
    · exact State.queuesKept_of_channels rfl
    · split
      · exact lost.trans ((State.modifyStation_queuesKept _ _).trans (State.addCensus_queuesKept _))
      · exact lost.trans (State.enterDown_queuesKept _ _)
    all_goals exact lost

theorem State.execStationTimestampTick_queuesKept (s : State) :
    ∃ t, execStationTimestampTick s = next t ∧ s.QueuesKept t := by
  refine ⟨_, rfl, ?_⟩
  split <;> exact State.queuesKept_of_channels rfl

/-- With no command waiting, an event is queued or the clock counts; neither touches a channel. -/
theorem State.idle_queuesKept (s : State) : s.QueuesKept s.idle := by
  unfold State.idle
  split
  · exact State.queuesKept_of_channels rfl
  · exact State.queuesKept_of_channels s.clockPeriod_same.2.1

/-! ### Every step -/

theorem State.reset_queuesBounded : State.reset.QueuesBounded := resetMeetsTheInvariants.1

/-- Every command keeps the queues bounded. -/
theorem exec_queuesKept {c : Instr} {s t : State} (h : exec c s = next t) : s.QueuesKept t := by
  have refused (ch : Channel) (code echo : Byte) (status : Status) (values : ResultValues) :
      s.QueuesKept (s.answer ch code echo status values) := s.answer_queuesKept ..
  cases c with
  | claim => exact .of_next (s.execClaim_queuesKept _ _ _ _ _ _ _) h
  | release => exact .of_next (s.execRelease_queuesKept _ _ _ _) h
  | renew => exact .of_next (s.execRenew_queuesKept _ _ _ _ _) h
  | query =>
    exact .of_next ⟨_, rfl, State.handleCommand_of (.refl s) (fun _ _ => refused ..) fun _ _ _ => refused ..⟩ h
  | status => exact .of_next ⟨_, rfl, State.atPort_of (.refl s) (refused ..)⟩ h
  | members =>
    refine .of_next ⟨_, rfl, State.atPort_of (.refl s) ?_⟩ h
    split <;> exact refused ..
  | resetChannel => exact .of_next ⟨_, rfl, State.atPort_of (.refl s) ((s.channelReset_queuesKept _).answer ..)⟩ h
  | resetChannelN => exact .of_next (s.execResetChannelN_queuesKept _ _ _) h
  | start => exact .of_next (s.execStart_queuesKept _ _) h
  | leave => exact .of_next (s.execLeave_queuesKept _ _) h
  | configureStation => exact .of_next (s.execConfigureStation_queuesKept _ _ _ _ _ _ _ _) h
  | setChannelLimits => exact .of_next (s.execSetChannelLimits_queuesKept _ _ _ _ _ _) h
  | setWindow => exact .of_next (s.execSetWindow_queuesKept _ _ _ _ _ _ _ _ _) h
  | setRoute => exact .of_next (s.execSetRoute_queuesKept _ _ _ _) h
  | unknownCommand => exact .of_next ⟨_, rfl, State.atPort_of (.refl s) (refused ..)⟩ h
  | shortWriteCommand ch => refine .of_next ⟨_, rfl, s.atPort_queuesKept ch ?_ ?_⟩ h <;> exact fun _ => rfl
  | readEvent => exact .of_next ⟨_, rfl, State.atPort_of (.refl s) (s.readEvent_queuesKept _)⟩ h
  | readAttention ch => refine .of_next ⟨_, rfl, s.atPort_queuesKept ch ?_ ?_⟩ h <;> exact fun _ => rfl
  | unknownOpcode ch => refine .of_next ⟨_, rfl, s.atPort_queuesKept ch ?_ ?_⟩ h <;> exact fun _ => rfl
  | deviceReset =>
    cases h
    exact ⟨fun _ => State.reset_queuesBounded⟩
  | upstreamPresent => exact .of_next s.execUpstreamPresent_queuesKept h
  | upstreamSilent => exact .of_next s.execUpstreamSilent_queuesKept h
  | frameArrival => exact .of_next s.execFrameArrival_queuesKept h
  | frameBoundary => exact .of_next s.execFrameBoundary_queuesKept h
  | drainingEndSent => exact .of_next s.execDrainingEndSent_queuesKept h
  | relaySettleExpiry => exact .of_next s.execRelaySettleExpiry_queuesKept h
  | joinHoldOffExpiry => exact .of_next s.execJoinHoldOffExpiry_queuesKept h
  | censusIntervalExpiry => exact .of_next s.execCensusIntervalExpiry_queuesKept h
  | censusLoss => exact .of_next s.execCensusLoss_queuesKept h
  | termTick i => exact .of_next (s.execTermTick_queuesKept i) h
  | termExpiry i => exact .of_next (s.execTermExpiry_queuesKept i) h
  | backoffExpiry i => exact .of_next (s.execBackoffExpiry_queuesKept i) h
  | claimCircuitTimeout i => exact .of_next (s.execClaimCircuitTimeout_queuesKept i) h
  | releaseCircuitTimeout i => exact .of_next (s.execReleaseCircuitTimeout_queuesKept i) h
  | leaseTableTakesStateChange => exact .of_next ⟨_, rfl, s.takeChange_queuesKept⟩ h
  | lineWordReceived w => exact .of_next (s.execLineWordReceived_queuesKept w) h
  | frameEndSent => exact .of_next s.execFrameEndSent_queuesKept h
  | stationTimestampTick => exact .of_next s.execStationTimestampTick_queuesKept h
  | resetRelease => cases h; exact State.queuesKept_of_channels rfl

/-- Settles O12: a full queue alone has items deferred, a READ EVENT fills the place it makes while items wait, and every other
event raises records into room or leaves the queues as they stand. -/
theorem stepKeepsQueuesBounded : Obligations.StepKeepsQueuesBounded := fun s t bounded h => by
  rcases step_cases h with ⟨-, rfl⟩ | ⟨c, rest, -, ran⟩
  · exact s.idle_queuesKept.bounded bounded
  · have waiting : State.QueuesBounded { s with pending := rest } := bounded
    exact (exec_queuesKept ran).bounded waiting

end Sys2Proof.Machine

namespace Sys2Proof.Machine

/-! ### A notice that meets another in the slot (R134) -/

theorem LeaseNotice.combine_terminal {held n : LeaseNotice} (h : held.kind.terminal = true) : held.combine n = held :=
  if_pos h

theorem LeaseNotice.combine_replaces {held n : LeaseNotice} (h : held.kind.terminal = false) (k : n.kind.terminal = true) :
    held.combine n = { n with marks := (n.marks.union held.marks).union { granted := held.kind.isGranted } } := by
  simp [LeaseNotice.combine, h, k]

theorem LeaseNotice.combine_marks {held n : LeaseNotice} (h : held.kind.terminal = false) (k : n.kind.terminal = false) :
    held.combine n = { held with marks := held.marks.withKind n.kind } := by
  simp [LeaseNotice.combine, h, k]

/-- A notice without room is combined with the one in its entry's slot (R132, R134). -/
theorem State.raiseLease_combined {s : State} {i : EntryIx} {t : Tenancy} {held : LeaseNotice} (h : s.tenancy i = some t)
    (room : ¬ s.RoomAt t.owner) (slot : t.deferred = some held) (kind : LeaseKind) (marks : Marks) :
    s.raiseLease i kind marks =
      s.modifyTenancy i ({ · with deferred := some (held.combine (s.noticeOf i t kind marks)) }) := by
  simp only [State.raiseLease, h, (s.hasRoom_false_iff _).2 room, slot, Bool.false_eq_true, if_false]

/-- Settles O41: by the room in the owner's queue, then by the slot, and there by the two kinds. -/
theorem leaseNoticeIsQueuedOrDeferred : Obligations.LeaseNoticeIsQueuedOrDeferred := by
  rintro s i t kind marks n h rfl
  refine ⟨fun room => State.raiseLease_queued h room kind marks,
    fun noRoom slot => State.raiseLease_deferred h noRoom slot kind marks,
    fun held noRoom slot => ⟨_, State.raiseLease_combined h noRoom slot kind marks, fun stays => ?_, fun opens ends => ?_,
      fun opens => ⟨?_, ?_, ?_⟩⟩⟩
  · exact LeaseNotice.combine_terminal stays
  · rw [LeaseNotice.combine_replaces opens ends]
    simp [State.noticeOf, Marks.union]
  · rintro m rfl
    exact LeaseNotice.combine_marks opens rfl
  · rintro station rfl
    exact LeaseNotice.combine_marks opens rfl
  · rintro ms rfl
    exact LeaseNotice.combine_marks opens rfl

/-! ### A station event at one channel (R136, R137) -/

/-- Without room and without a marker, a new marker joins the tail with the class in its set (R136). -/
theorem ChannelState.raise_unmarked {c : ChannelState} (noRoom : ¬ c.hasRoom = true)
    (unmarked : ∀ set, .marker set ∉ c.deferral) (cls : EventClass) (r : EventRecord) :
    c.raise cls r = { c with deferral := c.deferral ++ [.marker (({} : Suppressed).add cls)] } := by
  have none_ : ¬ c.deferral.any DeferralItem.isMarker = true := fun any => by
    obtain ⟨x, hx, marker⟩ := List.any_eq_true.1 any
    cases x with
    | marker set => exact unmarked set hx
    | entry i => cases marker
  rw [ChannelState.raise, if_neg noRoom, ChannelState.suppress, if_neg none_, ChannelState.defer]

/-- The class joins the set of the one marker, which keeps its place among the entries (R136). -/
theorem ChannelState.raise_at_marker {c : ChannelState} {before after : List DeferralItem} {set : Suppressed}
    (list : c.deferral = before ++ .marker set :: after) (entries : ∀ x ∈ before ++ after, x.isMarker = false)
    (cls : EventClass) (r : EventRecord) :
    c.raise cls r = { c with deferral := before ++ .marker (set.add cls) :: after } := by
  have same {l : List DeferralItem} (h : ∀ x ∈ l, x.isMarker = false) : l.map (DeferralItem.addClass cls) = l :=
    (List.map_congr_left fun x hx => DeferralItem.addClass_of_not_isMarker (h x hx)).trans (List.map_id' l)
  rw [ChannelState.raise_of_marked (by simp [list]), list, List.map_append, List.map_cons,
    same fun x hx => entries x (List.mem_append_left _ hx), same fun x hx => entries x (List.mem_append_right _ hx)]
  rfl

/-- A routing class added to a set, class by class. -/
theorem Suppressed.add_eventClass (set : Suppressed) (cls : RoutingClass) : set.add cls.eventClass = { set with
    ring := set.ring || cls == .ring
    membership := set.membership || cls == .membership
    faults := set.faults || cls == .faults } := by
  cases cls <;> simp [RoutingClass.eventClass, Suppressed.add]

/-- Settles O42: at the channel raised to, by its room, and without room by its marker. -/
theorem stationEventIsQueuedOrSuppressed : Obligations.StationEventIsQueuedOrSuppressed := by
  intro s cls r ch
  refine ⟨fun ⟨short, none_⟩ => State.modifyChannel_congr (ChannelState.raise_of_room none_ short _ _),
    fun ⟨short, none_⟩ => State.modifyChannel_congr (ChannelState.raise_of_room none_ short _ _),
    fun noRoom unmarked => ?_, fun before set after noRoom list entries => ?_⟩
  · have suppressed := ChannelState.raise_unmarked (mt (s.hasRoom_iff ch).1 noRoom) unmarked
    refine ⟨State.modifyChannel_congr (suppressed .void _), ?_⟩
    rintro rfl
    refine State.modifyChannel_congr ((suppressed cls.eventClass r).trans ?_)
    rw [Suppressed.add_eventClass]
    simp
  · have suppressed := ChannelState.raise_at_marker list entries
    refine ⟨State.modifyChannel_congr (suppressed .void _), ?_⟩
    rintro rfl
    refine State.modifyChannel_congr ((suppressed cls.eventClass r).trans ?_)
    rw [Suppressed.add_eventClass]

end Sys2Proof.Machine

namespace Sys2Proof.Machine

open Host.Outcome

/-! ### What lies around the blocks a command works on (R85, R119, R164, R180) -/

/-- The commands that wait, the unit identity, the timebase, the ports with the copies they shift out, the serial counter and
the configuration stay as they are. -/
structure State.SurroundKept (s t : State) : Prop where
  pending : t.pending = s.pending
  identity : t.identity = s.identity
  time : t.time = s.time
  ports : t.ports = s.ports
  serial : t.frames.serial = s.frames.serial
  config : t.config = s.config
  copies : ∀ c, (t.channel c).readCopy = (s.channel c).readCopy

theorem State.BlockWork.surround {s t : State} (h : s.BlockWork t) : s.SurroundKept t :=
  ⟨h.pending, h.identity, h.time, h.ports, h.serial, h.config, h.copies⟩

theorem State.LeaseWork.surround {s t : State} (h : s.LeaseWork t) : s.SurroundKept t := h.block.surround

theorem State.SurroundKept.refl (s : State) : s.SurroundKept s := (State.BlockWork.refl s).surround

theorem State.SurroundKept.trans {s t u : State} (h : s.SurroundKept t) (k : t.SurroundKept u) : s.SurroundKept u :=
  ⟨k.pending.trans h.pending, k.identity.trans h.identity, k.time.trans h.time, k.ports.trans h.ports,
    k.serial.trans h.serial, k.config.trans h.config, fun c => (k.copies c).trans (h.copies c)⟩

/-- Every tenancy, wait list and untaken change may be another. -/
theorem State.setLease_surround (s : State) (lease : LeaseTable) : s.SurroundKept { s with lease := lease } :=
  ⟨rfl, rfl, rfl, rfl, rfl, rfl, fun _ => rfl⟩

theorem State.answer_surround (s : State) (ch : Channel) (code echo : Byte) (status : Status) (values : ResultValues) :
    s.SurroundKept (s.answer ch code echo status values) :=
  State.BlockWork.surround (State.modifyChannel_block _ _ _ fun _ => rfl)

theorem State.SurroundKept.answer {s t : State} (h : s.SurroundKept t) (ch : Channel) (code echo : Byte) (status : Status)
    (values : ResultValues) : s.SurroundKept (t.answer ch code echo status values) := h.trans (t.answer_surround ..)

/-! ### Acceptance, START and LEAVE (R18 to R20, R107, R121) -/

theorem State.accept_surround (s : State) (i : EntryIx) (t : Tenancy) : s.SurroundKept (s.accept i t).1 := by
  have opened : s.SurroundKept (s.openTenancy i t) := s.setLease_surround _
  have waits := opened.trans (State.leaseWork_setWaiting _ (s.lease.waiting ++ [i])).surround
  unfold State.accept
  dsimp only
  split
  · split
    · exact waits
    · exact waits
    · exact opened.trans (State.grant_work _ _ _).surround
    · exact opened.trans (State.enterClaiming_work _ _).surround
  · exact waits

theorem State.takeStart_block (s : State) : s.BlockWork s.takeStart := by
  unfold State.takeStart
  exact (s.modifyStation_block _).trans ((State.raiseStation_work _ _ _).block.trans
    ((State.setTaken_block _ _).trans (State.modifyLine_block _ _)))

theorem State.bypassClosed_block (s : State) : s.BlockWork s.bypassClosed :=
  State.blockWork_of rfl rfl rfl rfl rfl rfl rfl rfl rfl

theorem State.lineLeave_block (s : State) : s.BlockWork s.lineLeave := by
  unfold State.lineLeave
  dsimp only
  split
  · exact State.blockWork_of rfl rfl rfl rfl rfl rfl rfl rfl rfl
  · exact State.blockWork_of rfl rfl rfl rfl rfl rfl rfl rfl rfl
  · exact State.blockWork_of rfl rfl rfl rfl rfl rfl rfl rfl rfl
  · exact State.blockWork_of rfl rfl rfl rfl rfl rfl rfl rfl rfl
  all_goals exact .refl s

theorem State.freeEntries_block (s : State) : s.BlockWork s.freeEntries :=
  ⟨rfl, rfl, rfl, fun c => by rw [s.freeEntries_channel], rfl, rfl, rfl, rfl, s.freeEntries_opensNone.generation,
    s.freeEntries_opensNone.free⟩

theorem State.takeLeave_block (s : State) : s.BlockWork s.takeLeave := by
  unfold State.takeLeave
  exact (((s.modifyStation_block _).trans ((State.freeEntries_block _).trans ((State.leaseWork_setSendList _ _).block.trans
    (State.modifyStation_block _ _)))).trans ((State.raiseVoid_work _ _).block.trans ((State.raiseVoid_work _ _).block.trans
    ((State.raiseVoid_work _ _).block.trans (State.raiseVoid_work _ _).block)))).trans
    ((State.raiseStation_work _ _ _).block.trans (State.lineLeave_block _))

theorem State.judgeNext_block (s : State) (a : Arrival) (rest : List Arrival) : s.BlockWork (s.judgeNext a rest) :=
  State.BlockWork.trans (t := s.modifyFrames ({ · with arrivals := rest }))
    (State.blockWork_of rfl rfl rfl rfl rfl rfl rfl rfl rfl) (s.judgeNext_judge a rest).block

theorem State.judgeWaiting_block (l : List Arrival) (s : State) : s.BlockWork (State.judgeWaiting l s) := by
  induction l generalizing s with
  | nil => exact .refl s
  | cons a l ih => exact (s.judgeNext_block a l).trans (ih _)

/-! ### Events of line and station (R93 to R102, R108 to R113) -/

theorem State.execFrameArrival_block (s : State) : ∃ t, execFrameArrival s = next t ∧ s.BlockWork t := by
  refine ⟨_, rfl, ?_⟩
  split
  · exact .refl s
  · exact s.judgeNext_block _ _

theorem State.execFrameEndSent_block (s : State) : ∃ t, execFrameEndSent s = next t ∧ s.BlockWork t := by
  refine ⟨_, rfl, ?_⟩
  split
  · exact s.modifyLine_block _
  · exact (s.modifyLine_block _).trans (State.bypassClosed_block _)
  all_goals exact .refl s

theorem State.execDrainingEndSent_block (s : State) : ∃ t, execDrainingEndSent s = next t ∧ s.BlockWork t := by
  refine ⟨_, rfl, ?_⟩
  split
  · exact (s.modifyLine_block _).trans (State.bypassClosed_block _)
  · exact .refl s

theorem State.execRelaySettleExpiry_block (s : State) : ∃ t, execRelaySettleExpiry s = next t ∧ s.BlockWork t := by
  refine ⟨_, rfl, ?_⟩
  split
  · exact (s.modifyLine_block _).trans (State.modifyStation_block _ _)
  all_goals exact .refl s

theorem State.execUpstreamPresent_block (s : State) : ∃ t, execUpstreamPresent s = next t ∧ s.BlockWork t := by
  refine ⟨_, rfl, ?_⟩
  split
  · exact s.detectWord_block
  · exact .refl s

theorem State.execUpstreamSilent_block (s : State) : ∃ t, execUpstreamSilent s = next t ∧ s.BlockWork t := by
  refine ⟨_, rfl, ?_⟩
  split
  · exact s.becomeSilent_block
  · exact .refl s

theorem State.execLineWordReceived_block (s : State) (w : LineWord) :
    ∃ t, execLineWordReceived w s = next t ∧ s.BlockWork t := by
  have seen : s.BlockWork (if wordIsValid w then s.detectWord else s) := by
    split
    · exact s.detectWord_block
    · exact .refl s
  refine ⟨_, rfl, ?_⟩
  split
  · exact seen.trans (State.receive_block _ _)
  · exact .refl s

theorem State.execJoinHoldOffExpiry_block (s : State) : ∃ t, execJoinHoldOffExpiry s = next t ∧ s.BlockWork t := by
  have ended := s.modifyStation_block ({ · with holdOff := none })
  refine ⟨_, rfl, ?_⟩
  split
  · exact .refl s
  · dsimp only
    split
    · exact ended.trans (State.addCensus_judge _).block
    · exact ended.trans (State.modifyStation_block _ _)

theorem State.execCensusIntervalExpiry_block (s : State) : ∃ t, execCensusIntervalExpiry s = next t ∧ s.BlockWork t := by
  have counted := s.modifyStation_block ({ · with interval := s.nextInterval })
  have queued := counted.trans (State.addCensus_judge _).block
  refine ⟨_, rfl, ?_⟩
  split
  · exact .refl s
  · dsimp only
    split
    · exact queued
    · split
      · exact queued
      · exact counted
    · split
      · exact queued
      · split
        · exact counted.trans (State.modifyStation_block _ _)
        · exact counted
    all_goals exact counted

theorem State.execCensusLoss_block (s : State) : ∃ t, execCensusLoss s = next t ∧ s.BlockWork t := by
  have lost := s.modifyStation_block ({ · with census := .none })
  refine ⟨_, rfl, ?_⟩
  split
  · exact .refl s
  · exact .refl s
  · dsimp only
    split
    · exact lost.trans (State.modifyStation_block _ _)
    · split
      · exact lost.trans ((State.modifyStation_block _ _).trans (State.addCensus_judge _).block)
      · exact lost.trans (State.enterDown_judge _ _).block
    all_goals exact lost

theorem State.execStationTimestampTick_block (s : State) : ∃ t, execStationTimestampTick s = next t ∧ s.BlockWork t := by
  refine ⟨_, rfl, ?_⟩
  split
  · exact .refl s
  · exact s.modifyStation_block _

/-- A frame boundary works on the Lease Table, the Frame Processor, the Station Controller and the Line Interface alone (R97). -/
theorem State.boundary_changes (s : State) : ∃ lease frames station line,
    s.boundary = { s with lease := lease, frames := frames, station := station, line := line } := by
  unfold State.boundary
  split
  · exact ⟨_, _, _, _, rfl⟩
  · split
    · unfold State.originateItem
      repeat' split
      all_goals exact ⟨_, _, _, _, rfl⟩
    · exact ⟨_, _, _, _, rfl⟩

/-! ### What each command leaves alone -/

/-- What a command leaves alone around the blocks, with the commands that may change each of it (R85, R119, R164, R180). -/
structure State.FramedBy (s : State) (c : Instr) (t : State) : Prop where
  pending : t.pending = s.pending
  identity : t.identity = s.identity
  time : t.time = s.time
  serial : c ≠ .frameBoundary → c ≠ .deviceReset → t.frames.serial = s.frames.serial
  ports : c ≠ .deviceReset → t.ports = s.ports
  copies : ∀ ch, c ≠ .deviceReset → c ≠ .readEvent ch → c ≠ .readAttention ch → (∀ opcode, c ≠ .unknownOpcode ch opcode) →
    (t.channel ch).readCopy = (s.channel ch).readCopy
  config : t.config ≠ s.config → c = .deviceReset ∨
    (s.station.state = .offline ∧ s.station.leaving = false ∧ c.channel = some 0 ∧ channelZeroOnly c ≠ none)

theorem State.SurroundKept.framed {s t : State} (h : s.SurroundKept t) (c : Instr) : s.FramedBy c t :=
  ⟨h.pending, h.identity, h.time, fun _ _ => h.serial, fun _ => h.ports, fun ch _ _ _ _ => h.copies ch,
    fun changed => absurd h.config changed⟩

theorem State.FramedBy.andThen {s t u : State} {c : Instr} (h : s.FramedBy c t) (k : t.SurroundKept u) : s.FramedBy c u :=
  ⟨k.pending.trans h.pending, k.identity.trans h.identity, k.time.trans h.time,
    fun boundary reset => k.serial.trans (h.serial boundary reset), fun reset => k.ports.trans (h.ports reset),
    fun ch reset event attention opcode => (k.copies ch).trans (h.copies ch reset event attention opcode),
    fun changed => h.config (k.config ▸ changed)⟩

/-- A configuration command of channel 0 that is taken in OFFLINE with leaving clear, and its answer (R164, R165). -/
theorem State.configured_framed {s : State} {c : Instr} (offline : s.station.state = .offline)
    (leaving : s.station.leaving = false) {f : ConfigStore → ConfigStore} {ch : Channel} {code echo : Byte} {status : Status}
    {values : ResultValues} (zero : c.channel = some 0) (only : channelZeroOnly c ≠ none) :
    s.FramedBy c ((s.modifyConfig f).answer ch code echo status values) :=
  State.FramedBy.andThen (t := s.modifyConfig f) ⟨rfl, rfl, rfl, fun _ _ => rfl, fun _ => rfl, fun _ _ _ _ _ => rfl,
    fun _ => .inr ⟨offline, leaving, zero, only⟩⟩ (State.answer_surround ..)

/-- A read, or an unknown opcode, at its own channel (R180, R181). -/
theorem State.modifyChannel_framed (s : State) {c : Instr} {ch : Channel}
    (reads : ∀ d, c ≠ .readEvent d → c ≠ .readAttention d → (∀ opcode, c ≠ .unknownOpcode d opcode) → ch ≠ d)
    (f : ChannelState → ChannelState) : s.FramedBy c (s.modifyChannel ch f) :=
  ⟨rfl, rfl, rfl, fun _ _ => rfl, fun _ => rfl,
    fun d _ event attention opcode => by rw [State.modifyChannel_channel, if_neg (reads d event attention opcode)],
    fun changed => absurd rfl changed⟩

theorem State.readEvent_framed (s : State) (ch : Channel) : s.FramedBy (.readEvent ch) (s.readEvent ch) := by
  have delivered := s.modifyChannel_framed (c := .readEvent ch) (ch := ch) fun d event _ _ e => event (by rw [e])
  unfold State.readEvent
  split
  · exact delivered _
  · exact (delivered _).andThen (State.moveIn_work _ _ _).surround

theorem State.boundary_framed (s : State) : s.FramedBy .frameBoundary s.boundary := by
  obtain ⟨lease, frames, station, line, changes⟩ := s.boundary_changes
  rw [changes]
  exact ⟨rfl, rfl, rfl, fun boundary => absurd rfl boundary, fun _ => rfl, fun _ _ _ _ _ => rfl,
    fun changed => absurd rfl changed⟩

/-- As `State.configCommand_of`, with the channel that the command acts on (R164, R177). -/
theorem State.configCommand_of_zero {P : State → Prop} {s : State} {ch : Channel} {code echo : Byte} {act : State → State}
    (same : P s) (refused : ∀ status values, P (s.answer ch code echo status values))
    (acts : ch = 0 → s.station.state = .offline → s.station.leaving = false → P (act s)) :
    P (s.configCommand ch code echo act) := by
  by_cases zero : ch = 0
  · exact State.configCommand_of same refused (acts zero)
  · unfold State.configCommand State.channel0Only
    simp only [zero, if_false]
    exact State.atPort_of same (refused _ _)

/-- Every command completes within its frame: its arm alone decides what it may write, whatever the state. -/
theorem exec_framed (c : Instr) (s : State) : ∃ t, exec c s = next t ∧ s.FramedBy c t := by
  have same : s.FramedBy c s := (State.SurroundKept.refl s).framed c
  have refused (ch : Channel) (code echo : Byte) (status : Status) (values : ResultValues) :
      s.FramedBy c (s.answer ch code echo status values) := (s.answer_surround ..).framed c
  have kept {x : Host.Outcome State Fault Refusal} (h : ∃ t, x = next t ∧ s.BlockWork t) :
      ∃ t, x = next t ∧ s.FramedBy c t :=
    let ⟨t, ht, k⟩ := h
    ⟨t, ht, k.surround.framed c⟩
  have entry {x : Host.Outcome State Fault Refusal} {i : EntryIx} (h : ∃ t, x = next t ∧ s.EntryWork i t) :
      ∃ t, x = next t ∧ s.FramedBy c t :=
    let ⟨t, ht, k⟩ := h
    ⟨t, ht, k.1.surround.framed c⟩
  cases c with
  | claim =>
    refine ⟨_, rfl, State.atPort_of same ?_⟩
    split
    · exact refused ..
    · split
      · exact refused ..
      · exact ((s.accept_surround _ _).answer ..).framed _
  | release =>
    exact ⟨_, rfl, State.handleCommand_of same (refused _ _ _) fun i _ _ =>
      (((s.discardDeferred_work i).trans (State.releaseEntry_work _ _ _)).surround.answer ..).framed _⟩
  | renew =>
    refine ⟨_, rfl, State.handleCommand_of same (refused _ _ _) fun i _ _ => ?_⟩
    split
    · exact refused ..
    · split
      · exact ((s.setLease_surround _).answer ..).framed _
      · exact refused ..
  | query => exact ⟨_, rfl, State.handleCommand_of same (refused _ _ _) fun _ _ _ => refused ..⟩
  | status => exact ⟨_, rfl, State.atPort_of same (refused ..)⟩
  | members =>
    refine ⟨_, rfl, State.atPort_of same ?_⟩
    split
    · exact refused ..
    · exact refused ..
  | resetChannel =>
    exact ⟨_, rfl, State.atPort_of same (((s.channelReset_work _).surround.answer ..).framed _)⟩
  | resetChannelN =>
    refine ⟨_, rfl, State.channel0Only_of same (refused _ _ _) ?_⟩
    dsimp only
    split
    · exact refused ..
    · exact (((s.channelReset_work _).surround.answer ..).answer ..).framed _
  | start =>
    refine ⟨_, rfl, State.configCommand_of same (refused _ _ _) fun _ _ => ?_⟩
    split
    · exact (s.takeStart_block.surround.answer ..).framed _
    · exact refused ..
  | leave =>
    refine ⟨_, rfl, State.channel0Only_of same (refused _ _ _) ?_⟩
    split
    · exact refused ..
    · exact (((State.judgeWaiting_block _ s).trans (State.takeLeave_block _)).surround.answer ..).framed _
  | configureStation =>
    refine ⟨_, rfl, State.configCommand_of_zero same (refused _ _ _) fun zero offline leaving => ?_⟩
    split
    · exact refused ..
    · exact State.configured_framed offline leaving (congrArg some zero) nofun
  | setChannelLimits =>
    refine ⟨_, rfl, State.configCommand_of_zero same (refused _ _ _) fun zero offline leaving => ?_⟩
    split
    · exact State.configured_framed offline leaving (congrArg some zero) nofun
    · exact refused ..
  | setWindow =>
    refine ⟨_, rfl, State.configCommand_of_zero same (refused _ _ _) fun zero offline leaving => ?_⟩
    dsimp only
    split
    · exact State.configured_framed offline leaving (congrArg some zero) nofun
    · exact refused ..
  | setRoute =>
    refine ⟨_, rfl, State.configCommand_of_zero same (refused _ _ _) fun zero offline leaving => ?_⟩
    split
    · exact State.configured_framed offline leaving (congrArg some zero) nofun
    · exact refused ..
  | unknownCommand => exact ⟨_, rfl, State.atPort_of same (refused ..)⟩
  | shortWriteCommand ch =>
    have flagged := s.modifyChannel_block ch ({ · with portError := true }) fun _ => rfl
    exact ⟨_, rfl, State.atPort_of same (flagged.surround.framed _)⟩
  | readEvent => exact ⟨_, rfl, State.atPort_of same (s.readEvent_framed _)⟩
  | readAttention =>
    exact ⟨_, rfl, State.atPort_of same (s.modifyChannel_framed (fun d _ attention _ e => attention (by rw [e])) _)⟩
  | unknownOpcode =>
    exact ⟨_, rfl, State.atPort_of same (s.modifyChannel_framed (fun d _ _ opcode e => opcode _ (by rw [e])) _)⟩
  | deviceReset =>
    exact ⟨_, rfl, rfl, rfl, rfl, fun _ reset => absurd rfl reset, fun reset => absurd rfl reset,
      fun _ reset => absurd rfl reset, fun _ => .inl rfl⟩
  | upstreamPresent => exact kept s.execUpstreamPresent_block
  | upstreamSilent => exact kept s.execUpstreamSilent_block
  | frameArrival => exact kept s.execFrameArrival_block
  | frameBoundary =>
    refine ⟨_, rfl, ?_⟩
    split
    · exact s.boundary_framed
    · exact s.boundary_framed
    all_goals exact same
  | drainingEndSent => exact kept s.execDrainingEndSent_block
  | relaySettleExpiry => exact kept s.execRelaySettleExpiry_block
  | joinHoldOffExpiry => exact kept s.execJoinHoldOffExpiry_block
  | censusIntervalExpiry => exact kept s.execCensusIntervalExpiry_block
  | censusLoss => exact kept s.execCensusLoss_block
  | termTick i => exact entry (s.execTermTick_entryWork i)
  | termExpiry i => exact entry (s.execTermExpiry_entryWork i)
  | backoffExpiry i => exact entry (s.execBackoffExpiry_entryWork i)
  | claimCircuitTimeout i => exact entry (s.execClaimCircuitTimeout_entryWork i)
  | releaseCircuitTimeout i => exact entry (s.execReleaseCircuitTimeout_entryWork i)
  | leaseTableTakesStateChange => exact ⟨_, rfl, s.takeChange_judge.block.surround.framed _⟩
  | lineWordReceived w => exact kept (s.execLineWordReceived_block w)
  | frameEndSent => exact kept s.execFrameEndSent_block
  | stationTimestampTick => exact kept s.execStationTimestampTick_block
  | resetRelease =>
    have risen : s.SurroundKept { s with rstnLow := false } := ⟨rfl, rfl, rfl, rfl, rfl, rfl, fun _ => rfl⟩
    exact ⟨_, rfl, risen.framed _⟩

/-- Settles O3: command by command. -/
theorem everyCommandCompletes : Obligations.EveryCommandCompletes := fun c s => by
  obtain ⟨t, ran, framed⟩ := exec_framed c s
  exact ⟨t, ran, framed.pending, framed.identity, framed.time, framed.serial, framed.ports, framed.copies⟩

/-- Settles O22: of all commands, the configuration commands and a device reset alone write the configuration. -/
theorem configurationIsFrozen : Obligations.ConfigurationIsFrozen := fun c s t h => by
  obtain ⟨r, ran, framed⟩ := exec_framed c s
  obtain rfl : r = t := by
    rw [ran] at h
    cases h
    rfl
  exact framed.config

end Sys2Proof.Machine

namespace Sys2Proof.Machine

open Host.Outcome

/-! ### The commands of channel 0 (R147, R163, R164, R177) -/

/-- On another channel such a command acts on nothing (R147). -/
theorem State.channel0Only_refuses {s : State} (high : s.rstnLow = false) {ch : Channel} (other : ch ≠ 0) (code echo : Byte)
    (act : State → State) : s.channel0Only ch code echo act = s.answer ch code echo .notPermitted .nothing := by
  rw [State.channel0Only, State.atPort_high high, if_neg other]

/-- A configuration command is not taken but in OFFLINE with leaving clear (R164). -/
theorem State.configCommand_refuses {s : State} (high : s.rstnLow = false)
    (wrong : s.station.state ≠ .offline ∨ s.station.leaving = true) (code echo : Byte) (act : State → State) :
    s.configCommand 0 code echo act = s.answer 0 code echo .wrongState .nothing := by
  have busy : ¬ (s.station.state = .offline ∧ s.station.leaving = false) := fun ⟨offline, leaving⟩ =>
    wrong.elim (absurd offline) (by simp [leaving])
  rw [State.configCommand, State.channel0Only, State.atPort_high high, if_pos rfl, if_neg busy]

/-- Each command of channel 0 is guarded by the check of its channel, and all but LEAVE and RESET CHANNEL n by that of a
configuration command behind it. -/
theorem exec_channelZeroOnly {c : Instr} {ch : Channel} {code echo : Byte} (h : channelZeroOnly c = some (ch, code, echo))
    (s : State) : (∃ act, exec c s = next (s.channel0Only ch code echo act)) ∧
      (code ≠ 0x25 → code ≠ 0x26 → ∃ act, exec c s = next (s.configCommand ch code echo act)) := by
  cases c with
  | resetChannelN => cases h; exact ⟨⟨_, rfl⟩, fun _ reset => absurd rfl reset⟩
  | leave => cases h; exact ⟨⟨_, rfl⟩, fun leave => absurd rfl leave⟩
  | start | configureStation | setChannelLimits | setWindow | setRoute => cases h; exact ⟨⟨_, rfl⟩, fun _ _ => ⟨_, rfl⟩⟩
  | _ => cases h

/-- The command code of LEAVE is LEAVE's alone (R185). -/
theorem channelZeroOnly_leave {c : Instr} {ch : Channel} {echo : Byte} (h : channelZeroOnly c = some (ch, 0x25, echo)) :
    c = .leave ch echo := by
  cases c with
  | leave => cases h; rfl
  | resetChannelN | start | configureStation | setChannelLimits | setWindow | setRoute => simp [channelZeroOnly] at h
  | _ => cases h

/-- LEAVE finds nothing to leave in OFFLINE, and is under way while leaving (R163). -/
theorem State.execLeave_refuses {s : State} (high : s.rstnLow = false)
    (off : s.station.state = .offline ∨ s.station.leaving = true) (echo : Byte) :
    exec (.leave 0 echo) s = next (s.answer 0 0x25 echo .wrongState .nothing) := by
  rw [exec, execLeave, State.channel0Only, State.atPort_high high, if_pos rfl, if_pos off]

/-- Settles O34: by the two guards, the channel's before the state's. -/
theorem commandsOfChannelZeroAreRefused : Obligations.CommandsOfChannelZeroAreRefused := by
  intro s c ch code echo high only
  obtain ⟨⟨act, ran⟩, guarded⟩ := exec_channelZeroOnly only s
  refine ⟨fun other => ?_, ?_, ?_⟩
  · rw [ran, State.channel0Only_refuses high other]
  · rintro rfl rfl off
    rw [channelZeroOnly_leave only, State.execLeave_refuses high off]
  · rintro rfl leave reset wrong
    obtain ⟨act', ran'⟩ := guarded leave reset
    rw [ran', State.configCommand_refuses high wrong]

/-! ### CLAIM's checks in their order (R151, R152, R171) -/

/-- A CLAIM that fails a check changes its slot alone (R147). -/
theorem State.execClaim_refuses {s : State} (high : s.rstnLow = false) {ch : Channel} {tag : Tag} {mode priority : Byte}
    {term : Word} {limit : Byte} {status : Status}
    (checked : s.checkClaim ch tag mode priority.toNat term.toNat limit.toNat = .error status) (echo : Byte) :
    exec (.claim ch echo tag mode priority term limit) s = next (s.answer ch 0x10 echo status .nothing) := by
  simp only [exec, execClaim, State.atPort_high high, checked]

/-- Check 1: the station's state (R151). -/
theorem State.checkClaim_notUp {s : State} (h : s.station.state ≠ .up ∨ s.station.leaving = true) (ch : Channel) (tag : Tag)
    (mode : Byte) (priority term limit : Nat) : s.checkClaim ch tag mode priority term limit = .error .notUp := if_pos h

/-- Check 2: the ranges of the arguments (R152). -/
theorem State.checkClaim_badArgument {s : State} (up : s.station.state = .up) (leaving : s.station.leaving = false)
    {ch : Channel} {mode priority : Byte} {term : Word} {limit : Byte}
    (range : ¬ ClaimInRange (s.limits ch) mode priority term limit) (tag : Tag) :
    s.checkClaim ch tag mode priority.toNat term.toNat limit.toNat = .error .badArgument := by
  rw [State.checkClaim, if_neg (by simp [up, leaving])]
  cases named : modeOfByte mode with
  | none => rfl
  | some m =>
    have moded : mode = 1 ∨ mode = 2 := ((modeOfByte_iff _ _).1 named).imp And.left And.left
    have numbers := fun numbers => range ((claimInRange_iff _ _ _ _ _).2 ⟨moded, numbers⟩)
    exact if_pos (Bool.not_eq_true _ ▸ numbers)

/-- With the station UP and the arguments in range, what is left to check: the ceiling, the windows, the attached entries and the
quota (R151, R171, R172). -/
theorem State.checkClaim_rights {s : State} (up : s.station.state = .up) (leaving : s.station.leaving = false)
    {ch : Channel} {mode priority : Byte} {term : Word} {limit : Byte} {m : Mode}
    (range : ClaimInRange (s.limits ch) mode priority term limit) (moded : ModeByte mode m) (tag : Tag) :
    s.checkClaim ch tag mode priority.toNat term.toNat limit.toNat =
      if (s.limits ch).ceiling < priority.toNat then .error .notPermitted
      else if s.windowsPermit ch tag m = false then .error .notPermitted
      else if s.hasAttached ch tag then .error .alreadyClaimed
      else if (s.limits ch).quota ≤ s.nonFree ch then .error .quotaFull
      else .ok m := by
  have numbers := ((claimInRange_iff _ _ _ _ _).1 range).2
  simp [State.checkClaim, up, leaving, (modeOfByte_iff _ _).2 moded, numbers]

/-- Settles O24: check by check, each behind those it comes after. -/
theorem claimIsRefusedByItsFirstFailingCheck : Obligations.ClaimIsRefusedByItsFirstFailingCheck := by
  intro s ch echo tag mode priority term limit m high
  refine ⟨fun off => State.execClaim_refuses high (State.checkClaim_notUp off ..) echo, fun up leaving =>
    ⟨fun range => State.execClaim_refuses high (State.checkClaim_badArgument up leaving range tag) echo,
      fun range moded => ?_⟩⟩
  have rights := State.checkClaim_rights up leaving range moded tag
  refine ⟨fun barred => State.execClaim_refuses high (rights.trans ?_) echo, fun ceiling window => ?_⟩
  · by_cases above : (s.limits ch).ceiling < priority.toNat
    · rw [if_pos above]
    · have closed := barred.resolve_left above
      rw [← State.windowsPermit_iff, Bool.not_eq_true] at closed
      rw [if_neg above, if_pos closed]
  · have open_ : ¬ s.windowsPermit ch tag m = false := by simpa [State.windowsPermit_iff] using window
    rw [if_neg (Nat.not_lt.2 ceiling), if_neg open_] at rights
    refine ⟨fun attached => State.execClaim_refuses high (rights.trans ?_) echo,
      fun alone full => State.execClaim_refuses high (rights.trans ?_) echo⟩
    · rw [if_pos ((s.hasAttached_iff ch tag).2 attached)]
    · rw [if_neg (mt (s.hasAttached_iff ch tag).1 alone), if_pos full]

/-! ### Command records (R183, R185, R186) -/

theorem bytes2_byteAt (x : Word) : bytes2 (byteAt x 8) (byteAt x 0) = x := bytes_of_word x

theorem bytes3_byteAt (x : Tag) : bytes3 (byteAt x 16) (byteAt x 8) (byteAt x 0) = x := bytes_of_tag x

/-- A record with a code that R185 does not list (R147). -/
theorem decodeRecord_unknown {code : Byte} (unknown : code ∉ knownCodes) (ch : Channel) (echo : Byte) (more : List Byte) :
    decodeRecord ch (padRecord [code, echo] ++ more) = some (.unknownCommand ch code echo) := by
  simp [knownCodes] at unknown
  simp [padRecord, decodeRecord, unknown]

/-- Settles O6: record by record, each field from the bytes it was laid out in. -/
theorem commandRecordsRoundTrip : Obligations.CommandRecordsRoundTrip := by
  intro i ch bytes more formed channel record
  cases i with
  | claim _ e tag mode priority term limit =>
    cases channel; cases record
    refine ⟨rfl, ?_⟩
    change some (Instr.claim ch e (bytes3 _ _ _) mode priority (bytes2 _ _) limit) = _
    rw [bytes3_byteAt, bytes2_byteAt]
  | renew _ e index generation term =>
    cases channel; cases record
    refine ⟨rfl, ?_⟩
    change some (Instr.renew ch e index generation (bytes2 _ _)) = _
    rw [bytes2_byteAt]
  | setChannelLimits _ e target quota ceiling maxTerm =>
    cases channel; cases record
    refine ⟨rfl, ?_⟩
    change some (Instr.setChannelLimits ch e target quota ceiling (bytes2 _ _)) = _
    rw [bytes2_byteAt]
  | setWindow _ e target window value mask enabled shared exclusive =>
    cases channel; cases record
    obtain ⟨bit0, bit1, bit2⟩ := windowFlags_bits enabled shared exclusive
    refine ⟨rfl, ?_⟩
    change some (Instr.setWindow ch e target window (bytes3 _ _ _) (bytes3 _ _ _) (BitVec.getLsbD _ 0) (BitVec.getLsbD _ 1)
      (BitVec.getLsbD _ 2)) = _
    rw [bytes3_byteAt, bytes3_byteAt, bit0, bit1, bit2]
  | unknownCommand _ code e =>
    cases channel; cases record
    exact ⟨rfl, decodeRecord_unknown (by simpa [Instr.wellFormed] using formed) ..⟩
  | release | query | status | members | resetChannel | resetChannelN | start | leave | configureStation | setRoute =>
    cases channel; cases record
    exact ⟨rfl, rfl⟩
  | _ => cases record

end Sys2Proof.Machine

namespace Sys2Proof.Machine

open Host.Outcome

/-! ### QUERY (R157) -/

/-- Remaining term and remote demand are reported in HELD (R157). -/
theorem Tenancy.queryValues_held {t : Tenancy} {remaining : Nat} {demand : Bool} (held : t.state = .held remaining demand) :
    t.queryValues =
      { state := .held, mode := t.mode, tag := t.tag, attempts := t.attempts, remaining := some remaining,
        remoteDemand := some demand, lastRefusal := t.lastRefusal } := by
  simp only [Tenancy.queryValues, Tenancy.remaining, Tenancy.remoteDemand, held, EntryState.name]

/-- They are absent in every other state (R157). -/
theorem Tenancy.queryValues_other {t : Tenancy} (other : ∀ remaining demand, t.state ≠ .held remaining demand) :
    t.queryValues =
      { state := t.state.name, mode := t.mode, tag := t.tag, attempts := t.attempts, remaining := none,
        remoteDemand := none, lastRefusal := t.lastRefusal } := by
  cases state : t.state with
  | held remaining demand => exact absurd state (other remaining demand)
  | _ => simp only [Tenancy.queryValues, Tenancy.remaining, Tenancy.remoteDemand, state]

theorem exec_query {s : State} (high : s.rstnLow = false) {ch : Channel} {index generation : Byte} {i : EntryIx} {t : Tenancy}
    (names : s.Names ch index generation i t) (echo : Byte) :
    exec (.query ch echo index generation) s = next (s.answer ch 0x13 echo .ok (.query t.queryValues)) :=
  congrArg next (State.handleCommand_found high names ..)

/-! ### MEMBERS (R159) -/

theorem exec_members {s : State} (high : s.rstnLow = false) {index : Byte} (within : index.toNat ≤ 63) (ch : Channel)
    (echo : Byte) : exec (.members ch echo index) s =
      next (s.answer ch 0x15 echo .ok (.member index.toNat s.station.view.length s.station.view[index.toNat]?)) :=
  congrArg next ((State.atPort_high high _).trans (if_neg (Nat.not_lt.2 within)))

theorem exec_members_above {s : State} (high : s.rstnLow = false) {index : Byte} (above : 63 < index.toNat) (ch : Channel)
    (echo : Byte) : exec (.members ch echo index) s = next (s.answer ch 0x15 echo .badArgument .nothing) :=
  congrArg next ((State.atPort_high high _).trans (if_pos above))

/-! ### The bytes of a result (R184, R187) -/

/-- A list that fits is followed by zeros (R184). -/
theorem padTo_eq {n : Nat} {bytes : List Byte} (fits : bytes.length ≤ n) :
    padTo n bytes = bytes ++ List.replicate (n - bytes.length) 0 := by
  rw [padTo, List.take_append, List.take_of_length_le fits, List.take_replicate, Nat.min_eq_left (Nat.sub_le _ _)]

/-- The values of every command fit behind code, echo and status (R187). -/
theorem ResultValues.bytes_length_le (values : ResultValues) : values.bytes.length ≤ 21 := by
  cases values with
  | query q => cases refusal : q.lastRefusal <;> simp [ResultValues.bytes, three, two, refusalBytes, refusal]
  | member index count entry => cases entry <;> simp [ResultValues.bytes, four]
  | _ => simp [ResultValues.bytes, two, three, four]

/-- Command code, echo, status and values, and zeros to the end (R187). -/
theorem slotBytes_some (code echo : Byte) (status : Status) (values : ResultValues) :
    slotBytes (some { code := code, echo := echo, status := status, values := values }) =
      code :: echo :: status.code :: (values.bytes ++ List.replicate (21 - values.bytes.length) 0) := by
  have fits := values.bytes_length_le
  have whole : ([code, echo, status.code] ++ values.bytes).length ≤ 24 := by
    simp only [List.length_append, List.length_cons, List.length_nil]; omega
  have zeros : 24 - ([code, echo, status.code] ++ values.bytes).length = 21 - values.bytes.length := by
    simp only [List.length_append, List.length_cons, List.length_nil]; omega
  rw [slotBytes, padTo_eq whole, zeros]
  rfl

/-- A byte below 16 is known from its four low bits. -/
theorem byte_eq_of_low {x y : Byte} (hx : x.toNat < 16) (hy : y.toNat < 16)
    (low : ∀ k, k < 4 → x.getLsbD k = y.getLsbD k) : x = y := by
  have high {z : Byte} (hz : z.toNat < 16) {k : Nat} (hk : 4 ≤ k) : z.getLsbD k = false :=
    Nat.testBit_lt_two_pow (Nat.lt_of_lt_of_le hz (Nat.pow_le_pow_right (n := 2) (by decide) hk))
  refine BitVec.eq_of_getLsbD_eq fun k _ => ?_
  by_cases hk : k < 4
  · exact low k hk
  · rw [high hx (Nat.not_lt.1 hk), high hy (Nat.not_lt.1 hk)]

/-- Four flags in the low bits of a byte. -/
theorem flagBytes_bits (a b c d : Bool) :
    (flagByte a ||| (flagByte b <<< 1) ||| (flagByte c <<< 2) ||| (flagByte d <<< 3)).toNat < 16 ∧
      ∀ k, k < 4 → (flagByte a ||| (flagByte b <<< 1) ||| (flagByte c <<< 2) ||| (flagByte d <<< 3)).getLsbD k =
        [a, b, c, d].getD k false := by
  revert a b c d; decide

/-- The presence flags of QUERY, bit by bit (R187). -/
theorem QueryValues.flags_eq {q : QueryValues} {flags : Byte} (small : flags.toNat < 16)
    (remaining : flags.getLsbD 0 = q.remaining.isSome) (demand : flags.getLsbD 1 = q.remoteDemand.isSome)
    (demanded : flags.getLsbD 2 = decide (q.remoteDemand = some true)) (refusal : flags.getLsbD 3 = q.lastRefusal.isSome) :
    q.flags = flags := by
  obtain ⟨below, bits⟩ := flagBytes_bits q.remaining.isSome q.remoteDemand.isSome (q.remoteDemand == some true)
    q.lastRefusal.isSome
  refine byte_eq_of_low below small fun k hk => (bits k hk).trans ?_
  interval_cases k
  · exact remaining.symm
  · exact demand.symm
  · exact (beq_eq_decide ..).trans demanded.symm
  · exact refusal.symm

theorem refusalBytes_some (x : LastRefusal) {objector : Byte} (absent : x.objector = none → objector = 0)
    (present : ∀ n : StationNo, x.objector = some n → objector = 0x80 ||| n.setWidth 8) :
    refusalBytes (some x) = [x.cause.code, objector] := by
  cases named : x.objector with
  | none => rw [refusalBytes, named, absent named]; rfl
  | some n => rw [refusalBytes, named, present n named, optionalStation_some]

/-- QUERY's bytes: an absent remaining term and an absent refusal read as zeros (R184, R187). -/
theorem QueryValues.bytes_eq {q : QueryValues} {remaining : Nat} {flags cause objector : Byte}
    (known : ∀ x, q.remaining = some x → remaining = x) (absent : q.remaining = none → remaining = 0)
    (refused : ∀ x, q.lastRefusal = some x → cause = x.cause.code ∧ (x.objector = none → objector = 0) ∧
      ∀ n : StationNo, x.objector = some n → objector = 0x80 ||| n.setWidth 8)
    (unrefused : q.lastRefusal = none → cause = 0 ∧ objector = 0) (flagged : q.flags = flags) :
    (ResultValues.query q).bytes =
      [q.state.code, q.mode.code, q.tag.extractLsb' 16 8, q.tag.extractLsb' 8 8, q.tag.extractLsb' 0 8,
       BitVec.ofNat 8 q.attempts, BitVec.ofNat 8 (remaining / 256), BitVec.ofNat 8 remaining, flags, cause, objector] := by
  have term : q.remaining.getD 0 = remaining := by
    cases left : q.remaining with
    | none => exact (absent left).symm
    | some x => exact (known x left).symm
  have refusal : refusalBytes q.lastRefusal = [cause, objector] := by
    cases last : q.lastRefusal with
    | none => obtain ⟨rfl, rfl⟩ := unrefused last; rfl
    | some x =>
      obtain ⟨rfl, unnamed, named⟩ := refused x last
      exact refusalBytes_some x unnamed named
  rw [ResultValues.bytes, three_toNat, term, flagged, refusal]
  rfl

/-- The three flags of a window, as SET WINDOW lays them out (R186, R187). -/
theorem Window.flags_eq (w : Window) : w.flags = windowFlags w.enabled w.sharedRight w.exclusiveRight := by
  have flags (a b c : Bool) : flagByte a ||| (flagByte b <<< 1) ||| (flagByte c <<< 2) = windowFlags a b c := by
    revert a b c; decide
  exact flags _ _ _

/-- Settles O32: command by command, and the values of a result kind by kind. -/
theorem reportsChangeOnlyTheResultSlot : Obligations.ReportsChangeOnlyTheResultSlot := by
  refine ⟨fun s ch echo index generation code high => ⟨fun i t names => ⟨fun remaining demand held => ?_, fun other => ?_⟩,
      congrArg next (State.atPort_high high _), fun above => exec_members_above high above ch echo, fun m within here => ?_,
      fun within absent => ?_, fun _ => congrArg next (State.atPort_high high _)⟩,
    rfl, fun code echo status values => ⟨values.bytes_length_le, slotBytes_some code echo status values⟩, rfl, rfl, rfl, rfl,
    rfl, rfl, rfl, fun i g => ?_, fun i g term => ?_, fun _ => rfl, fun _ _ => rfl,
    fun q remaining flags cause objector known absent refused unrefused bits => ?_, fun v => ?_,
    fun index count m => ⟨rfl, ?_⟩, fun _ _ _ _ => ⟨rfl, rfl⟩, fun x => ?_, fun _ _ => rfl, fun c k w => ?_, fun _ _ => rfl⟩
  · rw [exec_query high names, Tenancy.queryValues_held held]
  · rw [exec_query high names, Tenancy.queryValues_other other]
  · rw [exec_members high within, here]
  · rw [exec_members high within, List.getElem?_eq_none absent]
  · rw [ResultValues.bytes, byte_toNat]; rfl
  · rw [ResultValues.bytes, byte_toNat]; rfl
  · obtain ⟨bit0, bit1, bit2, bit3, small⟩ := bits
    exact QueryValues.bytes_eq known absent refused unrefused (QueryValues.flags_eq small bit0 bit1 bit2 bit3)
  · rw [ResultValues.bytes, byte_toNat, four_toNat, four_toNat]; rfl
  · rw [ResultValues.bytes, byte_toNat, four_toNat]; rfl
  · rw [ResultValues.bytes, byte_toNat]; rfl
  · rw [ResultValues.bytes, three_toNat, three_toNat, w.flags_eq]; rfl

end Sys2Proof.Machine

namespace Sys2Proof.Machine

open Host.Outcome

/-! ### The port-error flag (R146, R179 to R181) -/

theorem exec_shortWriteCommand {s : State} (high : s.rstnLow = false) (ch : Channel) (received : Nat) :
    exec (.shortWriteCommand ch received) s = next (s.modifyChannel ch ({ · with portError := true })) :=
  congrArg next (State.atPort_high high _)

theorem exec_unknownOpcode {s : State} (high : s.rstnLow = false) (ch : Channel) (opcode : Byte) :
    exec (.unknownOpcode ch opcode) s = next (s.modifyChannel ch ({ · with portError := true, readCopy := .zeros })) :=
  congrArg next (State.atPort_high high _)

theorem exec_readAttention {s : State} (high : s.rstnLow = false) (ch : Channel) :
    exec (.readAttention ch) s = next (s.modifyChannel ch fun c =>
      { c with portError := false
               readCopy := .attention c.queue.length (decide (c.deferral ≠ [])) c.portError }) := by
  have waits (l : List DeferralItem) : (!l.isEmpty) = decide (l ≠ []) := by cases l <;> rfl
  refine congrArg next ((State.atPort_high high _).trans (State.modifyChannel_congr ?_))
  rw [waits]

/-- A transaction whose opcode is none of the four of R178 is an unknown opcode whatever follows (R181). -/
theorem decodeTransaction_unknown {opcode : Byte} (unknown : opcode ∉ knownOpcodes) (ch : Channel) (bytes : List Byte) :
    decodeTransaction ch (opcode :: bytes) = some (.unknownOpcode ch opcode) := by
  simp [knownOpcodes] at unknown
  simp [decodeTransaction, unknown]

/-! ### Opcode decode and the bytes behind it (R178 to R181) -/

theorem State.opcodeDecoded_unknown {opcode : Byte} (unknown : opcode ∉ knownOpcodes) (s : State) (ch : Channel) :
    s.opcodeDecoded ch opcode =
      ({ s with pending := s.pending ++ [Instr.unknownOpcode ch opcode] } : State).setPort ch (.active (.shifting 0) []) := by
  have decoded := decodeTransaction_unknown unknown ch []
  have write : opcode ≠ 0x01 := fun e => unknown (e ▸ by decide)
  have result : opcode ≠ 0x02 := fun e => unknown (e ▸ by decide)
  rw [State.opcodeDecoded, if_neg write, if_neg result, decoded]
  rfl

/-! ### Bits (R178) -/

theorem State.setPort_self {s : State} {ch : Channel} {p : Port} (h : s.port ch = p) : s.setPort ch p = s := by
  have same : s.ports.set ch.val p ch.isLt = s.ports := by simp [← h, State.port, Vector.get_eq_getElem]
  rw [State.setPort, same]

/-- A whole byte acts whatever bits the port had collected. -/
theorem State.byteReceived_setPort (s : State) (ch : Channel) (p : Port) (phase : PortPhase) (b : Byte) :
    (s.setPort ch p).byteReceived ch phase b = s.byteReceived ch phase b := by
  have modified (f : ChannelState → ChannelState) (q : Port) :
      ((s.setPort ch p).modifyChannel ch f).setPort ch q = (s.modifyChannel ch f).setPort ch q :=
    (s.modifyChannel ch f).setPort_setPort ch p q
  have handed (c : Option Instr) (q : Port) : ((s.setPort ch p).hands c).setPort ch q = (s.hands c).setPort ch q :=
    (s.hands c).setPort_setPort ch p q
  cases phase with
  | opcode => simp only [State.byteReceived, State.opcodeDecoded, State.setPort_setPort, modified, handed]
  | writing bytes => exact State.setPort_setPort ..
  | shifting sent => exact State.setPort_setPort ..

/-- The bits of a byte that have been clocked, before its last, stand in the port. -/
theorem State.clockBits {s : State} {ch : Channel} {phase : PortPhase} (h : s.port ch = .active phase []) (b : Byte) :
    ∀ n, n < 8 → (List.range n).foldl (fun x k => x.clockBit ch (b.getMsbD k)) s =
      s.setPort ch (.active phase ((List.range n).map b.getMsbD))
  | 0, _ => (State.setPort_self h).symm
  | n + 1, hn => by
    have here := State.setPort_port_same s ch (.active phase ((List.range n).map b.getMsbD))
    have short : ((List.range n).map b.getMsbD).length < 7 := by simp only [List.length_map, List.length_range]; omega
    rw [List.range_succ, List.foldl_append, State.clockBits h b n (by omega), List.foldl_cons, List.foldl_nil, State.clockBit]
    simp only [here, if_pos short, State.setPort_setPort, List.map_append, List.map_cons, List.map_nil]

/-- With its eighth bit the byte counts (R178). -/
theorem State.clockByte {s : State} {ch : Channel} {phase : PortPhase} (h : s.port ch = .active phase []) (b : Byte) :
    (List.range 8).foldl (fun x k => x.clockBit ch (b.getMsbD k)) s = s.byteReceived ch phase b := by
  have here := State.setPort_port_same s ch (.active phase ((List.range 7).map b.getMsbD))
  have whole : ¬ ((List.range 7).map b.getMsbD).length < 7 := by simp
  have bits : (List.range 7).map b.getMsbD ++ [b.getMsbD 7] = [b.getMsbD 0, b.getMsbD 1, b.getMsbD 2, b.getMsbD 3,
    b.getMsbD 4, b.getMsbD 5, b.getMsbD 6, b.getMsbD 7] := rfl
  rw [List.range_succ, List.foldl_append, State.clockBits h b 7 (by decide), List.foldl_cons, List.foldl_nil, State.clockBit]
  simp only [here, if_neg whole, bits, byteOfBits_bits, State.byteReceived_setPort]

/-! ### Data-out (R178, R182) -/

/-- Data-out is the bit of the byte shifted out that the bits clocked so far have come to. -/
theorem State.dataOut_active {s : State} (high : s.rstnLow = false) {ch : Channel} {phase : PortPhase} {bits : List Bool}
    (h : s.port ch = .active phase bits) : s.dataOut ch = some ((s.outByte ch phase).getMsbD bits.length) := by
  simp only [State.dataOut, high, h, Bool.false_eq_true, if_false]

/-- Without a transaction the port is silent: bits are not sampled, and data-out is at high impedance. -/
theorem State.port_silent {s : State} {ch : Channel} (h : s.port ch = .idle ∨ s.port ch = .ignored) :
    (∀ sdi, s.clockBit ch sdi = s) ∧ s.selectRises ch = s.setPort ch .idle ∧ s.dataOut ch = none := by
  rcases h with h | h
  · simp [State.clockBit, State.selectRises, State.dataOut, h]
  · simp [State.clockBit, State.selectRises, State.dataOut, h]

/-! ### The rise of select (R178, R179) -/

/-- Outside a WRITE COMMAND the rise of select ends the transaction and nothing else. -/
theorem State.selectRises_read {s : State} {ch : Channel} {phase : PortPhase} {bits : List Bool}
    (h : s.port ch = .active phase bits) (read : phase = .opcode ∨ ∃ sent, phase = .shifting sent) :
    s.selectRises ch = s.setPort ch .idle := by
  rcases read with rfl | ⟨sent, rfl⟩
  · simp only [State.selectRises, h]
  · simp only [State.selectRises, h]

theorem State.selectRises_write {s : State} {ch : Channel} {bytes : List Byte} {bits : List Bool}
    (h : s.port ch = .active (.writing bytes) bits) :
    s.selectRises ch = (s.hands (decodeTransaction ch (0x01 :: bytes))).setPort ch .idle := by
  simp only [State.selectRises, h]

/-- Bytes behind a record change nothing (R179). -/
theorem decodeRecord_append {ch : Channel} {bytes : List Byte} {c : Instr} (h : decodeRecord ch bytes = some c)
    (more : List Byte) : decodeRecord ch (bytes ++ more) = some c := by
  unfold decodeRecord at h
  split at h
  · exact h
  · cases h

/-- Fewer than sixteen bytes are no record (R179). -/
theorem decodeRecord_short {bytes : List Byte} (short : bytes.length < 16) (ch : Channel) : decodeRecord ch bytes = none := by
  unfold decodeRecord
  split
  · simp only [List.length_cons] at short; omega
  · rfl

theorem decodeTransaction_record {ch : Channel} {bytes : List Byte} {c : Instr} (h : decodeRecord ch (bytes.take 16) = some c) :
    decodeTransaction ch (0x01 :: bytes) = some c := by
  have whole := decodeRecord_append h (bytes.drop 16)
  rw [List.take_append_drop] at whole
  rw [decodeTransaction, if_pos rfl, whole]
  rfl

theorem decodeTransaction_short {bytes : List Byte} (short : bytes.length < 16) (ch : Channel) :
    decodeTransaction ch (0x01 :: bytes) = some (.shortWriteCommand ch bytes.length) := by
  rw [decodeTransaction, if_pos rfl, decodeRecord_short short]
  rfl

/-- What the rise of select does where some bits of a byte have been clocked: they are discarded (R178). -/
theorem State.selectRises_setPort (s : State) (ch : Channel) (phase : PortPhase) (bits : List Bool) :
    (phase = .opcode ∨ (∃ sent, phase = .shifting sent) →
        (s.setPort ch (.active phase bits)).selectRises ch = s.setPort ch .idle) ∧
      ∀ bytes c, phase = .writing bytes → decodeTransaction ch (0x01 :: bytes) = some c →
        (s.setPort ch (.active phase bits)).selectRises ch =
          ({ s with pending := s.pending ++ [c] } : State).setPort ch .idle := by
  have here := State.setPort_port_same s ch (.active phase bits)
  refine ⟨fun read => ?_, ?_⟩
  · rw [State.selectRises_read here read, State.setPort_setPort]
  · rintro bytes c rfl decoded
    rw [State.selectRises_write here, decoded]
    exact (s.hands (some c)).setPort_setPort ch _ .idle

/-- Settles O39: the flag by its three commands; the port bit by bit, byte by byte, and at the rise of select. -/
theorem portErrorFlagIsSetAndRead : Obligations.PortErrorFlagIsSetAndRead := by
  refine ⟨fun s ch high => ⟨fun received => exec_shortWriteCommand high ch received,
      fun opcode unknown => ⟨decodeTransaction_unknown unknown ch [], exec_unknownOpcode high ch opcode⟩,
      exec_readAttention high ch⟩,
    fun s ch => ⟨fun idle => by simp only [State.selectFalls, idle], fun busy => ?_, State.port_silent,
      fun low => State.dataOut_low low ch, fun phase active => ⟨State.clockByte active, fun b n few => ?_⟩⟩,
    fun s ch b => ⟨rfl, rfl, rfl, rfl, fun unknown => s.opcodeDecoded_unknown unknown ch, fun _ => rfl, fun _ => rfl, rfl,
      fun _ => rfl, fun _ => rfl⟩,
    rfl, fun _ => rfl, fun _ => rfl, fun count deferral portError => ?_⟩
  · unfold State.selectFalls
    split
    · next idle => exact absurd idle busy
    · rfl
    · rfl
  · obtain ⟨reads, writes⟩ := s.selectRises_setPort ch phase ((List.range n).map b.getMsbD)
    refine ⟨_, State.clockBits active b n few |>.symm, fun high => ?_, reads,
      fun bytes writing => ⟨fun c _ record => ?_, fun short => ?_⟩⟩
    · have out := State.dataOut_active (s := s.setPort ch (.active phase ((List.range n).map b.getMsbD))) high
        (State.setPort_port_same ..)
      rw [out, List.length_map, List.length_range]
      rfl
    · exact writes bytes c writing (decodeTransaction_record record)
    · exact writes bytes _ writing (decodeTransaction_short short ch)
  · cases deferral <;> cases portError <;> rfl

end Sys2Proof.Machine

namespace Sys2Proof.Machine

open Host.Outcome

/-! ### The arguments of the configuration commands (R167, R169, R174) -/

theorem settingsOfBytes_within {number ringLimit circuitTimeout retryInterval steps : Byte}
    (within : number.toNat ≤ 63 ∧ 2 ≤ ringLimit.toNat ∧ ringLimit.toNat ≤ 64 ∧ 1 ≤ circuitTimeout.toNat ∧
      1 ≤ retryInterval.toNat ∧ 1 ≤ steps.toNat) (margin : Byte) :
    settingsOfBytes number ringLimit circuitTimeout retryInterval steps margin =
      some { stationNumber := number.setWidth 6, ringLimit := ringLimit.toNat, circuitTimeout := circuitTimeout.toNat,
             retryInterval := retryInterval.toNat, censusInterval := 10 * steps.toNat, warningMargin := margin.toNat } :=
  if_pos within

theorem settingsOfBytes_outside {number ringLimit circuitTimeout retryInterval steps : Byte}
    (outside : 63 < number.toNat ∨ ringLimit.toNat < 2 ∨ 64 < ringLimit.toNat ∨ circuitTimeout.toNat = 0 ∨
      retryInterval.toNat = 0 ∨ steps.toNat = 0) (margin : Byte) :
    settingsOfBytes number ringLimit circuitTimeout retryInterval steps margin = none :=
  if_neg (by omega)

theorem limitsOfBytes_within {quota ceiling : Byte} {maxTerm : Word} (inQuota : quota.toNat ≤ 64)
    (inCeiling : ceiling.toNat ≤ 7) (inTerm : 1 ≤ maxTerm.toNat) :
    limitsOfBytes quota ceiling maxTerm =
      some { quota := quota.toNat, ceiling := ceiling.toNat, maxTerm := maxTerm.toNat } :=
  if_pos ⟨inQuota, inCeiling, inTerm⟩

theorem limitsOfBytes_outside {quota ceiling : Byte} {maxTerm : Word}
    (outside : 64 < quota.toNat ∨ 7 < ceiling.toNat ∨ maxTerm.toNat = 0) : limitsOfBytes quota ceiling maxTerm = none :=
  if_neg (by omega)

/-- The codes of the three routing classes alone name a class; VOID's does not (R174, R185). -/
theorem routingClassOfByte_none {code : Byte} (unknown : code ∉ [(0x01 : Byte), 0x02, 0x03]) :
    routingClassOfByte code = none := by
  simp only [List.mem_cons, List.not_mem_nil, or_false, not_or] at unknown
  obtain ⟨ring, membership, faults⟩ := unknown
  rw [routingClassOfByte, if_neg ring, if_neg membership, if_neg faults]

/-! ### The configuration commands in OFFLINE (R164 to R174) -/

section

variable {s : State} (high : s.rstnLow = false) (offline : s.station.state = .offline) (leaving : s.station.leaving = false)
include high offline leaving

theorem exec_configureStation {number ringLimit circuitTimeout retryInterval steps margin : Byte} {x : Settings}
    (carried : settingsOfBytes number ringLimit circuitTimeout retryInterval steps margin = some x) (echo : Byte) :
    exec (.configureStation 0 echo number ringLimit circuitTimeout retryInterval steps margin) s =
      next ((s.modifyConfig ({ · with settings := x })).answer 0 0x20 echo .ok (.settings x)) := by
  rw [exec, execConfigureStation, State.configCommand_acts high offline leaving]
  simp only [carried]

theorem exec_configureStation_badArgument {number ringLimit circuitTimeout retryInterval steps margin : Byte}
    (bad : settingsOfBytes number ringLimit circuitTimeout retryInterval steps margin = none) (echo : Byte) :
    exec (.configureStation 0 echo number ringLimit circuitTimeout retryInterval steps margin) s =
      next (s.answer 0 0x20 echo .badArgument .nothing) := by
  rw [exec, execConfigureStation, State.configCommand_acts high offline leaving]
  simp only [bad]

theorem exec_setChannelLimits {target quota ceiling : Byte} {maxTerm : Word} {c : Channel} {l : Limits}
    (named : channelOfByte target = some c) (carried : limitsOfBytes quota ceiling maxTerm = some l) (echo : Byte) :
    exec (.setChannelLimits 0 echo target quota ceiling maxTerm) s =
      next ((s.modifyConfig fun x => { x with limits := x.limits.set c.val l c.isLt }).answer 0 0x21 echo .ok
        (.limits c l)) := by
  rw [exec, execSetChannelLimits, State.configCommand_acts high offline leaving]
  simp only [named, carried]

theorem exec_setChannelLimits_badArgument {target quota ceiling : Byte} {maxTerm : Word}
    (bad : channelOfByte target = none ∨ limitsOfBytes quota ceiling maxTerm = none) (echo : Byte) :
    exec (.setChannelLimits 0 echo target quota ceiling maxTerm) s = next (s.answer 0 0x21 echo .badArgument .nothing) := by
  rw [exec, execSetChannelLimits, State.configCommand_acts high offline leaving]
  split
  · next named carried => simp [named, carried] at bad
  · rfl

theorem exec_setWindow {target window : Byte} {c : Channel} {k : WindowIx} (named : channelOfByte target = some c)
    (numbered : windowOfByte window = some k) (w : Window) (echo : Byte) :
    exec (.setWindow 0 echo target window w.value w.mask w.enabled w.sharedRight w.exclusiveRight) s =
      next ((s.modifyConfig fun x =>
        { x with windows := x.windows.set c.val ((s.windows c).set k.val w k.isLt) c.isLt }).answer 0 0x22 echo .ok
        (.window c k w)) := by
  rw [exec, execSetWindow, State.configCommand_acts high offline leaving]
  simp only [named, numbered]
  rfl

theorem exec_setWindow_badArgument {target window : Byte} (bad : channelOfByte target = none ∨ windowOfByte window = none)
    (value mask : Tag) (enabled shared exclusive : Bool) (echo : Byte) :
    exec (.setWindow 0 echo target window value mask enabled shared exclusive) s =
      next (s.answer 0 0x22 echo .badArgument .nothing) := by
  rw [exec, execSetWindow, State.configCommand_acts high offline leaving]
  split
  · next named numbered => simp [named, numbered] at bad
  · rfl

theorem exec_setRoute {code target : Byte} {r : RoutingClass} {c : Channel} (classed : routingClassOfByte code = some r)
    (named : channelOfByte target = some c) (echo : Byte) :
    exec (.setRoute 0 echo code target) s =
      next ((s.modifyConfig fun x => { x with routing := x.routing.set r c }).answer 0 0x23 echo .ok (.route r c)) := by
  rw [exec, execSetRoute, State.configCommand_acts high offline leaving]
  simp only [classed, named]

theorem exec_setRoute_badArgument {code target : Byte} (bad : routingClassOfByte code = none ∨ channelOfByte target = none)
    (echo : Byte) : exec (.setRoute 0 echo code target) s = next (s.answer 0 0x23 echo .badArgument .nothing) := by
  rw [exec, execSetRoute, State.configCommand_acts high offline leaving]
  split
  · next classed named => simp [classed, named] at bad
  · rfl

end

/-- Settles O37: in OFFLINE by the ranges of the arguments, elsewhere by the refusals of every command of channel 0. -/
theorem configureStationWritesSixSettings : Obligations.ConfigureStationWritesSixSettings := by
  rintro s echo number ringLimit circuitTimeout retryInterval steps margin x high rfl
  have refused ch := commandsOfChannelZeroAreRefused s
    (.configureStation ch echo number ringLimit circuitTimeout retryInterval steps margin) ch 0x20 echo high rfl
  refine ⟨fun offline leaving within => ?_, fun offline leaving outside => ?_, fun wrong => ?_, fun ch other => ?_⟩
  · exact exec_configureStation high offline leaving (settingsOfBytes_within within margin) echo
  · exact exec_configureStation_badArgument high offline leaving (settingsOfBytes_outside outside margin) echo
  · obtain ⟨-, -, wrongState⟩ := refused 0
    exact wrongState rfl (by decide) (by decide) wrong
  · obtain ⟨notPermitted, -, -⟩ := refused ch
    exact notPermitted other

/-- Settles O38: command by command, each by the ranges of its arguments. -/
theorem limitsWindowsAndRoutesAreWritten : Obligations.LimitsWindowsAndRoutesAreWritten := by
  intro s echo target high offline leaving
  refine ⟨?limits, ?window, ?route, ?routeRefused⟩
  case limits =>
    rintro quota ceiling maxTerm l rfl
    refine ⟨fun c named inQuota inCeiling inTerm => ?_, fun outside => ?_⟩
    · exact exec_setChannelLimits high offline leaving (channelOfByte_some named)
        (limitsOfBytes_within inQuota inCeiling inTerm) echo
    · exact exec_setChannelLimits_badArgument high offline leaving
        (outside.imp channelOfByte_none limitsOfBytes_outside) echo
  case window =>
    intro window w
    refine ⟨fun c k named numbered => ?_, fun outside => ?_⟩
    · exact exec_setWindow high offline leaving (channelOfByte_some named) (windowOfByte_some numbered) w echo
    · exact exec_setWindow_badArgument high offline leaving (outside.imp channelOfByte_none windowOfByte_none) ..
  case route =>
    intro code c named
    have written r (classed : routingClassOfByte code = some r) :=
      exec_setRoute high offline leaving classed (channelOfByte_some named) echo
    refine ⟨?_, ?_, ?_⟩
    · rintro rfl
      exact written .ring rfl
    · rintro rfl
      exact written .membership rfl
    · rintro rfl
      exact written .faults rfl
  case routeRefused =>
    intro code outside
    exact exec_setRoute_badArgument high offline leaving (outside.symm.imp routingClassOfByte_none channelOfByte_none) echo

end Sys2Proof.Machine

namespace Sys2Proof.Machine

open Host.Outcome

/-! ### A WRITE COMMAND at the rise of select (R179) -/

/-- Sixteen bytes or more are always a record: a code that R185 does not name is an unknown command. -/
theorem decodeRecord_long {bytes : List Byte} (long : 16 ≤ bytes.length) (ch : Channel) :
    ∃ c, decodeRecord ch bytes = some c := by
  unfold decodeRecord
  split
  · exact ⟨_, rfl⟩
  · next short =>
    have sixteen : bytes = bytes[0] :: bytes[1] :: bytes[2] :: bytes[3] :: bytes[4] :: bytes[5] :: bytes[6] :: bytes[7] ::
        bytes[8] :: bytes[9] :: bytes[10] :: bytes[11] :: bytes[12] :: bytes[13] :: bytes[14] :: bytes[15] ::
        bytes.drop 16 := by
      simp only [List.getElem_cons_drop, List.drop_zero]
    exact (short _ _ _ _ _ _ _ _ _ _ _ _ _ _ _ _ _ sixteen).elim

/-- Settles O7: the first sixteen bytes decode by themselves and the bytes behind them change nothing; with fewer, the
transaction decodes to a short write, which sets the flag. -/
theorem writeCommandTakesSixteenBytes : Obligations.WriteCommandTakesSixteenBytes := by
  refine ⟨fun ch bytes long => ?_, fun ch bytes s short high => ?_⟩
  · have first : (bytes.take 16).length = 16 := List.length_take_of_le long
    obtain ⟨c, record⟩ := decodeRecord_long first.ge ch
    exact ⟨c, decodeTransaction_record record, record⟩
  · exact ⟨decodeTransaction_short short ch, exec_shortWriteCommand high ch bytes.length⟩

end Sys2Proof.Machine

namespace Sys2Proof.Machine

/-- Settles O1: the front command's branch of a step, at every state, command and rest of the queue. -/
theorem stepRunsTheFrontCommand : Obligations.StepRunsTheFrontCommand :=
  fun _ _ _ front => step_front front

end Sys2Proof.Machine
